-- ==== Sys2Proof/Word.lean ====
section
/-! DEFINITION. The words of BSX and the names of its lines and hold registers. -/

namespace Sys2Proof

/-- A 32-bit register or bus word (20_memory.md R50). -/
abbrev Word := BitVec 32

/-- A byte address of the host register space, 13 bits (20_memory.md R50). -/
abbrev Addr := BitVec 13

/-- A word width, the 5-bit WIDTH field (30_encoding.md R72). -/
abbrev Width := BitVec 5

/-- The seven output lines (10_state.md R25). -/
inductive Line where
  | busClock | bitClock | latch | dataOut | reset | readEnable | readAck
  deriving DecidableEq, Repr

/-- The lines in the order of the bits of LINES (10_state.md R36). -/
def Line.all : List Line :=
  [.busClock, .bitClock, .latch, .dataOut, .reset, .readEnable, .readAck]

/-- The thirteen hold registers, in the order of their offsets (10_state.md R33). -/
inductive HoldReg where
  | rstHi | txStart | txSettle | latchHi | latchLo | bclkHi | bclkLo | txEnd
  | rxStart | rxSample | ackHi | ackLo | rxEnd
  deriving DecidableEq, Repr

/-- The hold registers by offset 0x040, 0x044, … 0x070 (10_state.md R33). -/
def HoldReg.all : List HoldReg :=
  [.rstHi, .txStart, .txSettle, .latchHi, .latchLo, .bclkHi, .bclkLo, .txEnd,
   .rxStart, .rxSample, .ackHi, .ackLo, .rxEnd]

end Sys2Proof
end

