-- ==== Sys2Proof/Syntax.lean ====
section
/-! DEFINITION. The five commands of BSX (30_encoding.md R74), one constructor per row of
spec/opcode_table.json. -/

namespace Sys2Proof

/-- A command as 30_encoding.md R70 gives it: its opcode and, but for RESET, its WIDTH field (R72). -/
inductive Instr where
  /-- RESET, OP 1, WIDTH 0 (40_link.md R100). -/
  | reset
  /-- SEND w, OP 2 (40_link.md R103). -/
  | send (w : Width)
  /-- RECEIVE w, OP 3 (40_link.md R110). -/
  | receive (w : Width)
  /-- RECORD w, OP 4 (41_analyzer.md R121). -/
  | record (w : Width)
  /-- CLEAR w, OP 5 (41_analyzer.md R132). -/
  | clear (w : Width)
  deriving DecidableEq, Repr

/-- The width W of a command; RESET has none, and its field is 0 (30_encoding.md R72). -/
def Instr.width : Instr → Width
  | .reset => 0
  | .send w => w
  | .receive w => w
  | .record w => w
  | .clear w => w

end Sys2Proof
end

