-- ==== Sys2Proof/Decode.lean ====
section
/-! DEFINITION. Command words: the decoder (30_encoding.md R77, R78), then the encoder (R70, R74, R80).
The checks on STATE and on the width's range (causes 1 and 4) need the state and stand in Machine. -/

namespace Sys2Proof

/-- Why a word is no command (30_encoding.md R78). -/
inductive DecodeError where
  /-- Raised by `decode` for OP 0x0 and 0x6 to 0xF; the machine records cause 2. Safe. -/
  | badOp
  /-- Raised by `decode` for a set bit of [31:9], or RESET with WIDTH not 0; cause 3. Safe. -/
  | rsvBits
  deriving DecidableEq, Repr

/-- OP, bits 3:0 (30_encoding.md R70). -/
def opField (v : Word) : BitVec 4 := v.extractLsb' 0 4

/-- WIDTH, bits 8:4 (30_encoding.md R70). -/
def widthField (v : Word) : Width := v.extractLsb' 4 5

/-- RSV, bits 31:9 (30_encoding.md R70). -/
def rsvField (v : Word) : BitVec 23 := v.extractLsb' 9 23

/-- A command with a width: its reserved bits must be 0 (30_encoding.md R77). -/
def decodeWidth (mk : Width → Instr) (v : Word) : Except DecodeError Instr :=
  if rsvField v = 0 then .ok (mk (widthField v)) else .error .rsvBits

/-- The command a word stands for; the opcode is checked before the reserved bits (30_encoding.md R77). -/
def decode (v : Word) : Except DecodeError Instr :=
  match (opField v).toNat with
  | 1 => if rsvField v = 0 ∧ widthField v = 0 then .ok .reset else .error .rsvBits
  | 2 => decodeWidth .send v
  | 3 => decodeWidth .receive v
  | 4 => decodeWidth .record v
  | 5 => decodeWidth .clear v
  | _ => .error .badOp

/-- The opcode of a command (30_encoding.md R74). -/
def Instr.opcode : Instr → BitVec 4
  | .reset => 1
  | .send _ => 2
  | .receive _ => 3
  | .record _ => 4
  | .clear _ => 5

/-- The command word `(WIDTH << 4) | OP` (30_encoding.md R80). -/
def encode (i : Instr) : Word :=
  (i.width.setWidth 32 <<< 4) ||| i.opcode.setWidth 32

/-- The word the host writes for the low `nbits` bits of `w`; every bit above is 0. A command is one word
whose bit n is bit n of the bus data (20_memory.md R55), so nothing is laid out in bytes. -/
def tableWord (nbits w : Nat) : Word := BitVec.ofNat 32 (w % 2 ^ nbits)

/-- The command that `decode` reads from a row's bits. -/
def decodeTableWord (nbits w : Nat) : Option Instr :=
  match decode (tableWord nbits w) with
  | .ok i => some i
  | .error _ => none

end Sys2Proof
end

