-- ==== Sys2Proof/Config.lean ====
section
/-! DEFINITION. What an instance of BSX fixes (00_scope.md R9 to R12), the OPEN parameters
(92_eei_decisions.md, last table) and the free values (00_scope.md R5). An opaque constant has no
value in any proof. -/

namespace Sys2Proof

/-- WMAX of this spec (00_scope.md R9). The machine reads it from its PARAM field, see log entry 4. -/
def Config.wmax : Width := 9

/-- SYNC_STAGES of this spec (00_scope.md R11). -/
def Config.syncStages : BitVec 4 := 2

/-- UNIT_CYCLES less one: OPEN, so opaque (00_scope.md R10). -/
opaque Config.unitCyclesLessOne : Fin 65535

/-- UNIT_CYCLES, 1 to 65535, OPEN (00_scope.md R10). -/
def Config.unitCycles : BitVec 16 := BitVec.ofNat 16 (Config.unitCyclesLessOne.val + 1)

/-- The value of the DataIn pin at a clock edge past the values that `State.pins` lists: a free value
(00_scope.md R5; log entry 3). -/
opaque Config.dataInPin : Nat → Bool

/-- BSX_BASE, the platform address of the register window: OPEN (20_memory.md R53; log entry 14). -/
opaque Config.bsxBase : Nat

/-- REMOTE_TIMING, the hold in clock cycles that the remote device needs for each hold register: OPEN
(70_reset_and_hazards.md R187; log entry 15). -/
opaque Config.remoteTiming : HoldReg → Nat

end Sys2Proof
end

