-- ==== Sys2Proof/Machine/State.lean ====
section
/-! DEFINITION. The state of BSX (10_state.md R20) as plain data, with its value after block reset
(70_reset_and_hazards.md R182), the causes and faults of 60_exceptions.md, and the model's own fields
(the host's coming accesses, the coming pin values, the log). -/

namespace Sys2Proof.Machine

/-- STATE (10_state.md R23). -/
inductive Mode where
  | idle | resetting | sending | receiving
  deriving DecidableEq, Repr

/-- The cause codes 1 to 5 (60_exceptions.md R151). -/
inductive Cause where
  | busyCmd | badOp | rsvBits | badWidth | busyWrite
  deriving DecidableEq, Repr

/-- The faults the spec names. They never end a step: BSX goes on (60_exceptions.md R160), and the model
keeps a record of them that no step clears (R161; log entry 5). -/
inductive Fault where
  /-- CmdErr(c). Recorded by `State.raiseCmdErr`, for a refused command or register write
  (60_exceptions.md R150). Safe: the step goes on as the hardware does. -/
  | cmdErr (c : Cause)
  /-- Ovf(). Recorded by `State.raiseOvf`, for a RECORD that would overflow a counter
  (60_exceptions.md R155). Safe: the step goes on as the hardware does. -/
  | ovf
  deriving DecidableEq, Repr

/-- Refusals of the model. -/
inductive Refusal where
  /-- Raised by an arm of `exec` for an instruction without a meaning; no arm does. Safe. -/
  | notModelled (mnemonic : String)
  deriving DecidableEq, Repr

/-- The controller's sequencing registers (10_state.md R23, R24). -/
structure Ctl where
  /-- STATE (R23). -/
  mode : Mode
  /-- EVT: how many events of the running command have happened, so the index of the next one (R24). -/
  evt : Nat
  /-- HOLDCNT: the cycles that remain of the current hold (R24). -/
  holdCnt : BitVec 32
  /-- CUR_W: the width of the running command (R24). -/
  curW : Width
  /-- BITIDX: the bit index i of the loops (R24). -/
  bitIdx : BitVec 5
  /-- TXSHIFT: TXDATA as latched by SEND (R24). -/
  txShift : Word
  /-- RXSHIFT: the bits of a RECEIVE so far (R24). -/
  rxShift : Word
  /-- The variable b of RECEIVE, kept from its sample event to the event that writes RXSHIFT[i]
  (40_link.md R110; log entry 7). -/
  rxBit : Bool
  deriving DecidableEq, Repr

/-- The output line registers (10_state.md R25). -/
structure Lines where
  busClock : Bool
  bitClock : Bool
  latch : Bool
  dataOut : Bool
  reset : Bool
  readEnable : Bool
  readAck : Bool
  deriving DecidableEq, Repr

/-- The hold registers, bits 15:0 of each (10_state.md R33). -/
structure Holds where
  rstHi : BitVec 16
  txStart : BitVec 16
  txSettle : BitVec 16
  latchHi : BitVec 16
  latchLo : BitVec 16
  bclkHi : BitVec 16
  bclkLo : BitVec 16
  txEnd : BitVec 16
  rxStart : BitVec 16
  rxSample : BitVec 16
  ackHi : BitVec 16
  ackLo : BitVec 16
  rxEnd : BitVec 16
  deriving DecidableEq, Repr

/-- STATUS bits 4, 5 and 11:8 (10_state.md R31); BUSY and STATE are read off the mode. -/
structure Status where
  cmdErr : Bool
  ovf : Bool
  cause : BitVec 4
  deriving DecidableEq, Repr

/-- The analyzer (10_state.md R38 to R42). `perbit` lists PERBIT[0], PERBIT[1], … and `hist` the rows
HIST[0], HIST[1], … of WMAX cells each. -/
structure Analyzer where
  aw : Width
  perbit : List (BitVec 32)
  hist : List (List (BitVec 32))
  lastMask : Word
  lastCount : BitVec 6
  deriving DecidableEq, Repr

/-- The instance parameters as PARAM shows them (10_state.md R35; log entry 4). No step changes them. -/
structure Param where
  wmax : Width
  syncStages : BitVec 4
  unitCycles : BitVec 16
  deriving DecidableEq, Repr

/-- A host access of one clock cycle (20_memory.md R50, R51). -/
inductive BusOp where
  | none
  | read (a : Addr)
  | write (a : Addr) (v : Word)
  deriving DecidableEq, Repr

/-- The inputs the host side gives in one clock cycle: the reset input (70_reset_and_hazards.md R180) and
its one access (log entry 1). -/
structure HostCycle where
  rst : Bool
  bus : BusOp
  deriving DecidableEq, Repr

/-- A line that changed at an edge, and its new value (70_reset_and_hazards.md R193). -/
structure LineChange where
  edge : Nat
  line : Line
  value : Bool
  deriving DecidableEq, Repr

/-- A DataIn sample that RECEIVE took at an edge (70_reset_and_hazards.md R193). -/
structure Sample where
  edge : Nat
  value : Bool
  deriving DecidableEq, Repr

/-- A fault and the edge at which it was raised (60_exceptions.md R161). -/
structure FaultRecord where
  edge : Nat
  fault : Fault
  deriving DecidableEq, Repr

/-- What a host read returned, in the cycle ending at an edge (20_memory.md R51). -/
structure ReadRecord where
  edge : Nat
  addr : Addr
  value : Word
  deriving DecidableEq, Repr

/-- The model's own record of a run, newest entry first (70_reset_and_hazards.md R193, 60_exceptions.md
R161; log entry 6). `edge` numbers the coming clock edge. Nothing of BSX reads any of it. -/
structure Log where
  edge : Nat
  lineTrace : List LineChange
  samples : List Sample
  faults : List FaultRecord
  reads : List ReadRecord
  deriving DecidableEq, Repr

/-- BSX (10_state.md R20), and what the model adds: `host`, `pins` and `log`. -/
structure State where
  /-- The controller (R22 to R24). -/
  ctl : Ctl
  /-- The output lines (R25). -/
  lines : Lines
  /-- The DataIn synchroniser, the stage that captured the pin last first (R30). -/
  sync : List Bool
  /-- STATUS (R31). -/
  status : Status
  /-- The hold registers (R33). -/
  holds : Holds
  /-- TXDATA (R37). -/
  txData : Word
  /-- RXDATA (R37). -/
  rxData : Word
  /-- SAMPLE_RECV (R37). -/
  sampleRecv : Word
  /-- SAMPLE_EXP (R37). -/
  sampleExp : Word
  /-- The analyzer (R38 to R42). -/
  ana : Analyzer
  /-- The host's coming clock cycles, the next one first; past the end the host does nothing. -/
  host : List HostCycle
  /-- The coming values of the DataIn pin, one an edge; past the end they are free. -/
  pins : List Bool
  /-- The record of the run. -/
  log : Log
  /-- PARAM (R35). -/
  param : Param
  deriving DecidableEq, Repr

/-- The controller after block reset (70_reset_and_hazards.md R182; `rxBit` by log entry 7). -/
def Ctl.reset : Ctl :=
  { mode := .idle, evt := 0, holdCnt := 0, curW := 0, bitIdx := 0, txShift := 0, rxShift := 0,
    rxBit := false }

/-- The lines after block reset, all 0 (70_reset_and_hazards.md R182). -/
def Lines.low : Lines :=
  { busClock := false, bitClock := false, latch := false, dataOut := false, reset := false,
    readEnable := false, readAck := false }

/-- The hold registers' defaults (10_state.md R33, 70_reset_and_hazards.md R182). -/
def Holds.reset : Holds :=
  { rstHi := 15, txStart := 10, txSettle := 5, latchHi := 5, latchLo := 5, bclkHi := 5, bclkLo := 5,
    txEnd := 10, rxStart := 10, rxSample := 5, ackHi := 5, ackLo := 5, rxEnd := 5 }

/-- STATUS after block reset (70_reset_and_hazards.md R182). -/
def Status.reset : Status := { cmdErr := false, ovf := false, cause := 0 }

/-- The analyzer at the start of a session of width `aw`: its tables zeroed (41_analyzer.md R132). -/
def Analyzer.fresh (wmax aw : Width) : Analyzer :=
  { aw := aw
    perbit := List.replicate wmax.toNat 0
    hist := List.replicate (wmax.toNat + 1) (List.replicate wmax.toNat 0)
    lastMask := 0
    lastCount := 0 }

/-- Every stage of the synchroniser 0 (70_reset_and_hazards.md R182). -/
def syncReset (stages : BitVec 4) : List Bool := List.replicate stages.toNat false

/-- The instance of this spec (00_scope.md R9 to R11). -/
def Param.ofConfig : Param :=
  { wmax := Config.wmax, syncStages := Config.syncStages, unitCycles := Config.unitCycles }

/-- The record before anything happened (log entry 6). -/
def Log.empty : Log := { edge := 0, lineTrace := [], samples := [], faults := [], reads := [] }

/-- BSX right after block reset (70_reset_and_hazards.md R182), with no access of the host listed. -/
def State.reset : State :=
  { ctl := Ctl.reset
    lines := Lines.low
    sync := syncReset Config.syncStages
    status := Status.reset
    holds := Holds.reset
    txData := 0
    rxData := 0
    sampleRecv := 0
    sampleExp := 0
    ana := Analyzer.fresh Config.wmax Config.wmax
    host := []
    pins := []
    log := Log.empty
    param := Param.ofConfig }

end Sys2Proof.Machine
end

