-- ==== Sys2Proof/Machine/Flags.lean ====
section
/-! DEFINITION. The flags of BSX, all in STATUS (10_state.md R31, R32), and the codes of its fields. -/

namespace Sys2Proof.Machine

/-- The encoding of STATE in STATUS bits 2:1 (10_state.md R23). -/
def modeCode : Mode → BitVec 2
  | .idle => 0
  | .resetting => 1
  | .sending => 2
  | .receiving => 3

/-- The code that CAUSE records (60_exceptions.md R151). -/
def causeCode : Cause → BitVec 4
  | .busyCmd => 1
  | .badOp => 2
  | .rsvBits => 3
  | .badWidth => 4
  | .busyWrite => 5

/-- BUSY: STATE is not IDLE (10_state.md R31). -/
def State.busy (s : State) : Bool := s.ctl.mode != .idle

/-- The STATUS word, its reserved bits 0 (10_state.md R31). -/
def statusWord (s : State) : Word :=
  (BitVec.ofBool s.busy).setWidth 32 |||
  ((modeCode s.ctl.mode).setWidth 32 <<< 1) |||
  ((BitVec.ofBool s.status.cmdErr).setWidth 32 <<< 4) |||
  ((BitVec.ofBool s.status.ovf).setWidth 32 <<< 5) |||
  (s.status.cause.setWidth 32 <<< 8)

/-- STATUS after the host writes `v` to it: bit 4 clears CMDERR and CAUSE, bit 5 clears OVF, the other
bits are ignored (10_state.md R31). -/
def Status.written (v : Word) (f : Status) : Status :=
  { cmdErr := f.cmdErr && !v.getLsbD 4
    ovf := f.ovf && !v.getLsbD 5
    cause := if v.getLsbD 4 then 0 else f.cause }

/-- STATUS after a refusal with cause `c`: the first cause is kept (60_exceptions.md R150). -/
def Status.refusing (c : Cause) (f : Status) : Status :=
  { f with cmdErr := true, cause := if f.cmdErr then f.cause else causeCode c }

end Sys2Proof.Machine
end

