-- ==== Sys2Proof/Machine/Ops.lean ====
section
/-! DEFINITION. The named operations over BSX's state: bits, lines, hold registers, the error tables,
raising and clearing the errors of 60_exceptions.md, block reset, and the DataIn synchroniser. -/

namespace Sys2Proof.Machine

/-- `v mod 2^n` (00_scope.md R14). -/
def lowBits (v : Word) (n : Nat) : Word := BitVec.ofNat 32 (v.toNat % 2 ^ n)

/-- The number of 1 bits of `v` (00_scope.md R14). -/
def popcount (v : Word) : Nat := (List.range 32).countP fun i => v.getLsbD i

/-- The value of an output line. -/
def Lines.get (l : Lines) : Line → Bool
  | .busClock => l.busClock
  | .bitClock => l.bitClock
  | .latch => l.latch
  | .dataOut => l.dataOut
  | .reset => l.reset
  | .readEnable => l.readEnable
  | .readAck => l.readAck

/-- `line(L) <- b` (00_scope.md R15). -/
def Lines.set (l : Lines) : Line → Bool → Lines
  | .busClock, b => { l with busClock := b }
  | .bitClock, b => { l with bitClock := b }
  | .latch, b => { l with latch := b }
  | .dataOut, b => { l with dataOut := b }
  | .reset, b => { l with reset := b }
  | .readEnable, b => { l with readEnable := b }
  | .readAck, b => { l with readAck := b }

/-- The lines whose value differs, with the new value, in the order of LINES (log entry 12). -/
def Lines.changes (old new : Lines) : List (Line × Bool) :=
  Line.all.filterMap fun l => if old.get l = new.get l then none else some (l, new.get l)

/-- The value of a hold register (10_state.md R33). -/
def Holds.get (h : Holds) : HoldReg → BitVec 16
  | .rstHi => h.rstHi
  | .txStart => h.txStart
  | .txSettle => h.txSettle
  | .latchHi => h.latchHi
  | .latchLo => h.latchLo
  | .bclkHi => h.bclkHi
  | .bclkLo => h.bclkLo
  | .txEnd => h.txEnd
  | .rxStart => h.rxStart
  | .rxSample => h.rxSample
  | .ackHi => h.ackHi
  | .ackLo => h.ackLo
  | .rxEnd => h.rxEnd

/-- A write of a hold register (10_state.md R33). -/
def Holds.set (h : Holds) : HoldReg → BitVec 16 → Holds
  | .rstHi, v => { h with rstHi := v }
  | .txStart, v => { h with txStart := v }
  | .txSettle, v => { h with txSettle := v }
  | .latchHi, v => { h with latchHi := v }
  | .latchLo, v => { h with latchLo := v }
  | .bclkHi, v => { h with bclkHi := v }
  | .bclkLo, v => { h with bclkLo := v }
  | .txEnd, v => { h with txEnd := v }
  | .rxStart, v => { h with rxStart := v }
  | .rxSample, v => { h with rxSample := v }
  | .ackHi, v => { h with ackHi := v }
  | .ackLo, v => { h with ackLo := v }
  | .rxEnd, v => { h with rxEnd := v }

/-- `d(H) = max(1, H * UNIT_CYCLES)`, in clock cycles (40_link.md R90). -/
def State.holdLen (s : State) (h : HoldReg) : Nat :=
  max 1 ((s.holds.get h).toNat * s.param.unitCycles.toNat)

/-- PERBIT[p] (10_state.md R39); 0 outside the table (20_memory.md R57; log entry 17). -/
def Analyzer.perbitAt (a : Analyzer) (p : Nat) : BitVec 32 := a.perbit.getD p 0

/-- HIST[k][p] (10_state.md R40); 0 outside the table (20_memory.md R57; log entry 17). -/
def Analyzer.histAt (a : Analyzer) (k p : Nat) : BitVec 32 := (a.hist.getD k []).getD p 0

/-- A table row whose first cell is position `p`, with 1 added at every set position of `m`
(41_analyzer.md R121). -/
def bumpFrom (m : Word) : Nat → List (BitVec 32) → List (BitVec 32)
  | _, [] => []
  | p, c :: cs => (if m.getLsbD p then c + 1 else c) :: bumpFrom m (p + 1) cs

/-- The increments of a RECORD with mismatch mask `m` and wrong-bit count `k`, and its LAST registers
(41_analyzer.md R121). -/
def Analyzer.count (a : Analyzer) (m : Word) (k : Nat) : Analyzer :=
  { a with
    perbit := bumpFrom m 0 a.perbit
    hist := a.hist.set k (bumpFrom m 0 (a.hist.getD k []))
    lastMask := m
    lastCount := BitVec.ofNat 6 k }

/-- Whether some increment of the RECORD would take a counter past 2^32 - 1 (41_analyzer.md R121). -/
def Analyzer.wouldOverflow (a : Analyzer) (m : Word) (k w : Nat) : Bool :=
  (List.range w).any fun p =>
    m.getLsbD p &&
      (a.perbitAt p == BitVec.allOnes 32 || a.histAt k p == BitVec.allOnes 32)

/-- A fault goes into the model's own record (60_exceptions.md R161). -/
def State.recordFault (f : Fault) (s : State) : State :=
  { s with log := { s.log with faults := ⟨s.log.edge, f⟩ :: s.log.faults } }

/-- `raise CmdErr(c)`: the refused access changes STATUS.CMDERR and STATUS.CAUSE, nothing else
(60_exceptions.md R150). There is no trap: nothing is saved and no control moves (R159). -/
def State.raiseCmdErr (c : Cause) (s : State) : State :=
  { s.recordFault (.cmdErr c) with status := s.status.refusing c }

/-- `raise Ovf()`: STATUS.OVF is set, nothing else changes (60_exceptions.md R155). -/
def State.raiseOvf (s : State) : State :=
  { s.recordFault .ovf with status := { s.status with ovf := true } }

/-- The return from an error: a host write of STATUS (60_exceptions.md R160, 10_state.md R31). -/
def State.writeStatus (v : Word) (s : State) : State :=
  { s with status := s.status.written v }

/-- The acceptance check that every command shares, as far as the state decides it: busy first, then the
width's range (30_encoding.md R77). -/
def State.accept (inRange : Bool) (s : State) (run : State → State) : Host.Outcome State Fault Refusal :=
  if s.busy then .next (s.raiseCmdErr .busyCmd)
  else if inRange then .next (run s)
  else .next (s.raiseCmdErr .badWidth)

/-- Block reset: every piece of BSX state takes its reset value (70_reset_and_hazards.md R180 to R182).
PARAM is not changed by it; the host's and the pin's coming values and the record are no BSX state. -/
def State.blockReset (s : State) : State :=
  { s with
    ctl := Ctl.reset
    lines := Lines.low
    sync := syncReset s.param.syncStages
    status := Status.reset
    holds := Holds.reset
    txData := 0
    rxData := 0
    sampleRecv := 0
    sampleExp := 0
    ana := Analyzer.fresh s.param.wmax s.param.wmax }

/-- The DataIn pin at the coming edge (10_state.md R29; log entry 3). -/
def State.pin (s : State) : Bool := s.pins.headD (Config.dataInPin s.log.edge)

/-- `sample()`: DataIn_sync at the coming edge, the pin SYNC_STAGES edges earlier (10_state.md R30;
log entry 11). -/
def State.dataInSync (s : State) : Bool := s.sync.getLastD s.pin

/-- The synchroniser captures the pin at an edge (10_state.md R30). -/
def State.shiftSync (s : State) : State :=
  { s with sync := (s.pin :: s.sync).take s.sync.length }

end Sys2Proof.Machine
end

