-- ==== Sys2Proof/Machine/Operands.lean ====
section
/-! DEFINITION. The operands of the commands (30_encoding.md R75): each comes from a data register, cut
to the command's width. -/

namespace Sys2Proof.Machine

/-- The received word of RECORD w (30_encoding.md R75). -/
def State.receivedWord (s : State) (w : Width) : Word := lowBits s.sampleRecv w.toNat

/-- The expected word of RECORD w (30_encoding.md R75). -/
def State.expectedWord (s : State) (w : Width) : Word := lowBits s.sampleExp w.toNat

/-- MismatchMask of RECORD w (41_analyzer.md R121). -/
def State.mismatchMask (s : State) (w : Width) : Word := s.receivedWord w ^^^ s.expectedWord w

/-- wrongCount of RECORD w (41_analyzer.md R121). -/
def State.wrongCount (s : State) (w : Width) : Nat := popcount (s.mismatchMask w)

/-- Bit i of the word that a SEND transmits, from TXDATA as latched (40_link.md R103). -/
def State.txBitAt (s : State) (i : Nat) : Bool := s.ctl.txShift.getLsbD i

end Sys2Proof.Machine
end

