-- ==== Sys2Proof/Machine/AnalyzerCommands.lean ====
section
/-! DEFINITION. RECORD and CLEAR, whole at their acceptance edge (41_analyzer.md R120). -/

namespace Sys2Proof.Machine

/-- All the increments of a RECORD, or none of them and Ovf (41_analyzer.md R121, R124). -/
def State.recordSample (w : Width) (s : State) : State :=
  if s.ana.wouldOverflow (s.mismatchMask w) (s.wrongCount w) w.toNat then s.raiseOvf
  else { s with ana := s.ana.count (s.mismatchMask w) (s.wrongCount w) }

/-- The start of a session of width `w` (41_analyzer.md R132). -/
def State.startSession (w : Width) (s : State) : State :=
  { s with ana := Analyzer.fresh s.param.wmax w }

/-- RECORD w (41_analyzer.md R121). -/
def execRecord (w : Width) (s : State) : Host.Outcome State Fault Refusal :=
  s.accept (w ≤ s.ana.aw) fun s => s.recordSample w

/-- CLEAR w (41_analyzer.md R132). -/
def execClear (w : Width) (s : State) : Host.Outcome State Fault Refusal :=
  s.accept (w ≤ s.param.wmax) fun s => s.startSession w

end Sys2Proof.Machine
end

