-- ==== Sys2Proof/Machine/Controller.lean ====
section
/-! DEFINITION. The controller: the event lists of the link commands (40_link.md R92, R100, R103, R110)
and what one clock edge does to a running command. -/

namespace Sys2Proof.Machine

/-- What an event of a link command does at its edge (40_link.md R100, R103, R110). -/
inductive Action where
  /-- `line(L) <- b`. -/
  | drive (l : Line) (b : Bool)
  /-- `BITIDX <- i; line(DataOut) <- TXSHIFT[i]`. -/
  | txBit (i : Nat)
  /-- `BITIDX <- i; b <- sample()`. -/
  | sampleBit (i : Nat)
  /-- `RXSHIFT[i] <- b; line(ReadAck) <- 1`. -/
  | storeAndAck (i : Nat)
  deriving DecidableEq, Repr

/-- What follows an event: the hold of a register, or `wait 1` (40_link.md R90). -/
inductive Wait where
  | hold (h : HoldReg)
  | one
  deriving DecidableEq, Repr

/-- An event and the hold after it (40_link.md R92). -/
structure Event where
  act : Action
  wait : Wait
  deriving DecidableEq, Repr

/-- RESET (40_link.md R100). -/
def resetEvents : List Event :=
  [⟨.drive .reset true, .hold .rstHi⟩, ⟨.drive .reset false, .one⟩]

/-- One bit slot of SEND, steps a to d (40_link.md R103). -/
def sendSlot (i : Nat) : List Event :=
  [⟨.txBit i, .hold .txSettle⟩,
   ⟨.drive .latch true, .hold .latchHi⟩, ⟨.drive .latch false, .hold .latchLo⟩,
   ⟨.drive .bitClock true, .hold .bclkHi⟩, ⟨.drive .bitClock false, .hold .bclkLo⟩]

/-- SEND of `w` bits (40_link.md R103). -/
def sendEvents (w : Nat) : List Event :=
  ⟨.drive .busClock true, .hold .txStart⟩ ::
    ((List.range w).flatMap sendSlot ++ [⟨.drive .busClock false, .hold .txEnd⟩])

/-- One bit slot of RECEIVE, steps a to c (40_link.md R110). -/
def receiveSlot (i : Nat) : List Event :=
  [⟨.sampleBit i, .hold .rxSample⟩,
   ⟨.storeAndAck i, .hold .ackHi⟩, ⟨.drive .readAck false, .hold .ackLo⟩]

/-- RECEIVE of `w` bits (40_link.md R110). -/
def receiveEvents (w : Nat) : List Event :=
  ⟨.drive .readEnable true, .hold .rxStart⟩ ::
    ((List.range w).flatMap receiveSlot ++ [⟨.drive .readEnable false, .hold .rxEnd⟩])

/-- The event list of the command that runs in a mode with a width; IDLE has none (40_link.md R92). -/
def events (mode : Mode) (w : Nat) : List Event :=
  match mode with
  | .idle => []
  | .resetting => resetEvents
  | .sending => sendEvents w
  | .receiving => receiveEvents w

/-- The events of the running command. -/
def State.program (s : State) : List Event := events s.ctl.mode s.ctl.curW.toNat

/-- The clock cycles of the wait after an event (40_link.md R90). -/
def State.waitLen (s : State) : Wait → Nat
  | .hold h => s.holdLen h
  | .one => 1

/-- An action at its edge (40_link.md R100, R103, R110). -/
def State.perform (a : Action) (s : State) : State :=
  match a with
  | .drive l b => { s with lines := s.lines.set l b }
  | .txBit i =>
    { s with
      ctl := { s.ctl with bitIdx := BitVec.ofNat 5 i }
      lines := s.lines.set .dataOut (s.txBitAt i) }
  | .sampleBit i =>
    { s with
      ctl := { s.ctl with bitIdx := BitVec.ofNat 5 i, rxBit := s.dataInSync }
      log := { s.log with samples := ⟨s.log.edge, s.dataInSync⟩ :: s.log.samples } }
  | .storeAndAck i =>
    { s with
      ctl := { s.ctl with
        rxShift := if s.ctl.rxBit then s.ctl.rxShift ||| BitVec.twoPow 32 i
                   else s.ctl.rxShift &&& ~~~ BitVec.twoPow 32 i }
      lines := s.lines.set .readAck true }

/-- EVT and HOLDCNT at the edge of an event (10_state.md R24, 40_link.md R92). -/
def State.startHold (w : Wait) (s : State) : State :=
  { s with ctl := { s.ctl with evt := s.ctl.evt + 1, holdCnt := BitVec.ofNat 32 (s.waitLen w) } }

/-- The completion edge: RECEIVE writes RXDATA, and STATE becomes IDLE (40_link.md R92, R110). EVT and
HOLDCNT go back to 0 (log entry 8). -/
def State.complete (s : State) : State :=
  { s with
    rxData := if s.ctl.mode = .receiving then s.ctl.rxShift else s.rxData
    ctl := { s.ctl with mode := .idle, evt := 0, holdCnt := 0 } }

/-- The event EVT of the running command, or its completion after the last one (40_link.md R92). -/
def State.fire (s : State) : State :=
  match s.program[s.ctl.evt]? with
  | some e => (s.perform e.act).startHold e.wait
  | none => s.complete

/-- The controller at a clock edge while a command runs: HOLDCNT counts the hold down, and the edge at
which it runs out is that of the next event (40_link.md R92). -/
def State.advance (s : State) : State :=
  if s.ctl.holdCnt.toNat ≤ 1 then s.fire
  else { s with ctl := { s.ctl with holdCnt := s.ctl.holdCnt - 1 } }

/-- Acceptance of a link command: its state is entered and its event E0 happens, at the same edge
(40_link.md R92). -/
def State.start (ctl : Ctl) (s : State) : State := { s with ctl := { ctl with evt := 0 } }.fire

end Sys2Proof.Machine
end

