-- ==== Sys2Proof/Machine/LinkCommands.lean ====
section
/-! DEFINITION. RESET, SEND and RECEIVE at their acceptance edge (40_link.md). From there on the
controller runs their event lists (Machine/Controller.lean), one clock edge a step. -/

namespace Sys2Proof.Machine

/-- RESET (40_link.md R100). It writes no CUR_W (log entry 9). -/
def execReset (s : State) : Host.Outcome State Fault Refusal :=
  s.accept true fun s => s.start { s.ctl with mode := .resetting }

/-- SEND w (40_link.md R103). -/
def execSend (w : Width) (s : State) : Host.Outcome State Fault Refusal :=
  s.accept (w ≤ s.param.wmax) fun s =>
    s.start { s.ctl with mode := .sending, curW := w, txShift := s.txData }

/-- RECEIVE w (40_link.md R110). -/
def execReceive (w : Width) (s : State) : Host.Outcome State Fault Refusal :=
  s.accept (w ≤ s.param.wmax) fun s =>
    s.start { s.ctl with mode := .receiving, curW := w, rxShift := 0 }

end Sys2Proof.Machine
end

