-- ==== Sys2Proof/Machine/Dispatch.lean ====
section
/-! DEFINITION. The meaning of every command, one arm each (30_encoding.md R74). -/

namespace Sys2Proof.Machine

def exec (i : Instr) (s : State) : Host.Outcome State Fault Refusal :=
  match i with
  | .reset => Sys2Proof.Machine.execReset s
  | .send w => Sys2Proof.Machine.execSend w s
  | .receive w => Sys2Proof.Machine.execReceive w s
  | .record w => Sys2Proof.Machine.execRecord w s
  | .clear w => Sys2Proof.Machine.execClear w s

end Sys2Proof.Machine
end

