-- ==== Sys2Proof/Machine/Registers.lean ====
section
/-! DEFINITION. The host register space: which register an address reaches, what it reads as, and the
bridge view of it (20_memory.md R50 to R57). -/

namespace Sys2Proof.Machine

/-- What an address reaches (20_memory.md R52). -/
inductive Reg where
  | cmd | status | txData | rxData | sampleRecv | sampleExp | lastMask | lastCount
  | anaWidth | param | lines
  | hold (h : HoldReg)
  | perbit (p : Nat)
  | hist (k p : Nat)
  | unmapped
  deriving DecidableEq, Repr

/-- The register at word index `n`, the offset divided by 4 (20_memory.md R52). -/
def regAtIndex (n : Nat) : Reg :=
  match n with
  | 0 => .cmd
  | 1 => .status
  | 2 => .txData
  | 3 => .rxData
  | 4 => .sampleRecv
  | 5 => .sampleExp
  | 6 => .lastMask
  | 7 => .lastCount
  | 8 => .anaWidth
  | 9 => .param
  | 10 => .lines
  | n =>
    if 16 ≤ n ∧ n ≤ 28 then
      match HoldReg.all[n - 16]? with
      | some h => .hold h
      | none => .unmapped
    else if 64 ≤ n ∧ n < 96 then .perbit (n - 64)
    else if 512 ≤ n ∧ n < 1536 then .hist ((n - 512) / 32) ((n - 512) % 32)
    else .unmapped

/-- The register an access to address `a` reaches; bits 1:0 of `a` are ignored (20_memory.md R54). -/
def regAt (a : Addr) : Reg := regAtIndex (a.toNat / 4)

/-- A bit of a register word. -/
def bitAt (b : Bool) (n : Nat) : Word := (BitVec.ofBool b).setWidth 32 <<< n

/-- LINES (10_state.md R36). -/
def linesWord (s : State) : Word :=
  bitAt s.lines.busClock 0 ||| bitAt s.lines.bitClock 1 ||| bitAt s.lines.latch 2 |||
  bitAt s.lines.dataOut 3 ||| bitAt s.lines.reset 4 ||| bitAt s.lines.readEnable 5 |||
  bitAt s.lines.readAck 6 ||| bitAt s.dataInSync 7

/-- PARAM (10_state.md R35). -/
def paramWord (p : Param) : Word :=
  p.wmax.setWidth 32 ||| (p.syncStages.setWidth 32 <<< 8) ||| (p.unitCycles.setWidth 32 <<< 16)

/-- PERBIT[p] as its window shows it (20_memory.md R57). -/
def perbitWord (s : State) (p : Nat) : Word :=
  if p < s.param.wmax.toNat then s.ana.perbitAt p else 0

/-- HIST[k][p] as its window shows it (20_memory.md R57). -/
def histWord (s : State) (k p : Nat) : Word :=
  if k ≤ s.param.wmax.toNat ∧ p < s.param.wmax.toNat then s.ana.histAt k p else 0

/-- What a host read of a register returns (20_memory.md R52, R56). -/
def State.readReg (s : State) : Reg → Word
  | .cmd => 0
  | .status => statusWord s
  | .txData => s.txData
  | .rxData => s.rxData
  | .sampleRecv => s.sampleRecv
  | .sampleExp => s.sampleExp
  | .lastMask => s.ana.lastMask
  | .lastCount => s.ana.lastCount.setWidth 32
  | .anaWidth => s.ana.aw.setWidth 32
  | .param => paramWord s.param
  | .lines => linesWord s
  | .hold h => (s.holds.get h).setWidth 32
  | .perbit p => perbitWord s p
  | .hist k p => histWord s k p
  | .unmapped => 0

/-- `MemRead(a, 4)` (00_scope.md R15, 20_memory.md R51). -/
def State.read (s : State) (a : Addr) : Word := s.readReg (regAt a)

/-- Byte `a` of the register space as a bridge presents it: lane j of a register is its bits
8j+7 to 8j (20_memory.md R55). No access of the machine uses it. -/
def State.readByte (s : State) (a : Addr) : BitVec 8 := (s.read a).extractLsb' (8 * (a.toNat % 4)) 8

/-- The offset in BSX of a platform address, none outside the window (20_memory.md R53; log entry 14). -/
def windowOffset (hostAddr : Nat) : Option Addr :=
  if Config.bsxBase ≤ hostAddr ∧ hostAddr < Config.bsxBase + 0x2000 then
    some (BitVec.ofNat 13 (hostAddr - Config.bsxBase))
  else none

end Sys2Proof.Machine
end

