-- ==== Sys2Proof/Machine/Bus.lean ====
section
/-! DEFINITION. What a host access does at the edge that ends its cycle (20_memory.md R51, R56, R58;
30_encoding.md R77; 60_exceptions.md R150, R152). -/

namespace Sys2Proof.Machine

/-- The cause that the machine records for a word that is no command (60_exceptions.md R151). -/
def decodeCause : DecodeError → Cause
  | .badOp => .badOp
  | .rsvBits => .rsvBits

/-- A host write of `v` to CMD: busy first, then the word's own checks, then the command
(30_encoding.md R77; log entry 19). -/
def State.issueCommand (v : Word) (s : State) : Host.Outcome State Fault Refusal :=
  if s.busy then .next (s.raiseCmdErr .busyCmd)
  else
    match decode v with
    | .ok i => exec i s
    | .error e => .next (s.raiseCmdErr (decodeCause e))

/-- A register write that is refused while a command runs (60_exceptions.md R152). -/
def State.guardedWrite (s : State) (stored : State) : State :=
  if s.busy then s.raiseCmdErr .busyWrite else stored

/-- A host write of `v` to a register; read-only and unmapped ones ignore it (20_memory.md R56). -/
def State.writeReg (r : Reg) (v : Word) (s : State) : Host.Outcome State Fault Refusal :=
  match r with
  | .cmd => s.issueCommand v
  | .status => .next (s.writeStatus v)
  | .txData => .next (s.guardedWrite { s with txData := v })
  | .sampleRecv => .next (s.guardedWrite { s with sampleRecv := v })
  | .sampleExp => .next (s.guardedWrite { s with sampleExp := v })
  | .hold h => .next (s.guardedWrite { s with holds := s.holds.set h (v.setWidth 16) })
  | .rxData | .lastMask | .lastCount | .anaWidth | .param | .lines => .next s
  | .perbit _ | .hist _ _ | .unmapped => .next s

/-- What a read returned goes into the record, and nothing else changes (20_memory.md R58). -/
def State.recordRead (a : Addr) (s : State) : State :=
  { s with log := { s.log with reads := ⟨s.log.edge, a, s.read a⟩ :: s.log.reads } }

/-- The host's access of the cycle, judged against the state before the edge (20_memory.md R51). -/
def State.busAccess (op : BusOp) (s : State) : Host.Outcome State Fault Refusal :=
  match op with
  | .none => .next s
  | .read a => .next (s.recordRead a)
  | .write a v => s.writeReg (regAt a) v

end Sys2Proof.Machine
end

