-- ==== Sys2Proof/Machine/Cycle.lean ====
section
/-! DEFINITION. One clock edge of BSX (70_reset_and_hazards.md R180, R190): block reset over all else,
then the host's access and the controller's event. -/

namespace Sys2Proof.Machine

/-- A clock cycle in which the host does nothing (log entry 2). -/
def quietCycle : HostCycle := { rst := false, bus := .none }

/-- The host's side of the coming clock cycle. -/
def State.hostCycle (s : State) : HostCycle := s.host.headD quietCycle

/-- The lines that changed since `old` go into the record (70_reset_and_hazards.md R193). -/
def State.recordLines (old : Lines) (s : State) : State :=
  { s with log := { s.log with
      lineTrace := (old.changes s.lines).map (fun c => ⟨s.log.edge, c.1, c.2⟩) ++ s.log.lineTrace } }

/-- The cycle is over: the host's and the pin's next values move up, and the edge is counted. -/
def State.endCycle (s : State) : State :=
  { s with host := s.host.tail, pins := s.pins.tail, log := { s.log with edge := s.log.edge + 1 } }

/-- A read in a cycle whose edge resets the block returns the reset value; another access has no effect
(70_reset_and_hazards.md R180; log entry 10). -/
def State.resetAccess (op : BusOp) (s : State) : State :=
  match op with
  | .read a => s.recordRead a
  | .none | .write _ _ => s

/-- The edge of a cycle with rst = 1 (70_reset_and_hazards.md R180, R181). -/
def State.resetEdge (op : BusOp) (s : State) : State :=
  ((s.blockReset.resetAccess op).recordLines s.lines).endCycle

/-- What the edge does besides the host's access, whose outcome on `s` is `t`: the event or hold of the
command that was running before the edge, and the synchroniser (70_reset_and_hazards.md R190; log entry 16). -/
def State.finishEdge (s t : State) : State :=
  ((if s.busy then t.advance else t).shiftSync.recordLines s.lines).endCycle

/-- The edge of a cycle with rst = 0 (70_reset_and_hazards.md R190). -/
def State.runEdge (op : BusOp) (s : State) : Host.Outcome State Fault Refusal :=
  match s.busAccess op with
  | .next t => .next (s.finishEdge t)
  | .fault f => .fault f
  | .refused r => .refused r

/-- One clock edge (70_reset_and_hazards.md R190). -/
def State.clockEdge (s : State) : Host.Outcome State Fault Refusal :=
  if s.hostCycle.rst then .next (s.resetEdge s.hostCycle.bus) else s.runEdge s.hostCycle.bus

/-- The host writes command word `v` to CMD in the coming cycle, with rst = 0 (30_encoding.md R70). -/
def State.withCommand (s : State) (v : Word) : State :=
  { s with host := { rst := false, bus := .write 0 v } :: s.host.tail }

end Sys2Proof.Machine
end

