-- ==== Sys2Proof/Machine/Step.lean ====
section
/-! DEFINITION. The step of BSX is one clock edge (Machine/Cycle.lean). -/

namespace Sys2Proof.Machine

/-- One clock edge. -/
def step (s : State) : Host.Outcome State Fault Refusal := s.clockEdge

/-- `s` with the host about to write the command of the row's bits to CMD (log entry 13). -/
def State.withFetchWord (s : State) (nbits w : Nat) : State := s.withCommand (tableWord nbits w)

end Sys2Proof.Machine
end

