-- ==== Sys2Proof/WellFormed.lean ====
section
/-! DEFINITION. Which commands are legal for an instance (30_encoding.md R76). -/

namespace Sys2Proof

/-- The width of a legal command is at most WMAX (30_encoding.md R76). For RECORD the bound is AW, which
lies in the state and is at most WMAX (10_state.md R38): the machine checks it, here stands what holds of
every legal RECORD. -/
def Instr.wellFormed (wmax : Width) : Instr → Bool
  | .reset => true
  | .send w => w ≤ wmax
  | .receive w => w ≤ wmax
  | .record w => w ≤ wmax
  | .clear w => w ≤ wmax

end Sys2Proof
end

