-- ==== Sys2Proof/Safety.lean ====
section
/-! DEFINITION. What counts as a safe run of BSX, in the terms claims use: the invariants of the spec
(10_state.md R28, R31, R37, R38, R41), the fault record (60_exceptions.md R161), the remote device's
timing (70_reset_and_hazards.md R187), and the cycle counts, event times and samples of the link commands
(40_link.md). -/

namespace Sys2Proof.Machine

/-- No CmdErr and no Ovf happened so far (60_exceptions.md R161). -/
def State.noFault (s : State) : Bool := s.log.faults.isEmpty

/-- Every hold is at least what the remote device needs (70_reset_and_hazards.md R187). -/
def State.remoteTimingMet (s : State) : Prop := ∀ h, Config.remoteTiming h ≤ s.holdLen h

/-- In the coming `n` cycles the block is not reset (70_reset_and_hazards.md R180). -/
def State.noReset (s : State) (n : Nat) : Prop := ∀ c ∈ s.host.take n, c.rst = false

/-- In the coming cycle the host writes the command word of `i` to CMD, with rst = 0
(30_encoding.md R70). -/
def State.issues (s : State) (i : Instr) : Prop :=
  ∃ a, regAt a = .cmd ∧ s.hostCycle = { rst := false, bus := .write a (encode i) }

/-- A refused access as 60_exceptions.md R150 gives it: CMDERR is set, CAUSE is the first cause, the
model's record gets the fault (R161), and nothing else changes. -/
def State.refusedWith (c : Cause) (s : State) : State :=
  { s with
    status := { s.status with
      cmdErr := true, cause := if s.status.cmdErr = false then causeCode c else s.status.cause }
    log := { s.log with faults := { edge := s.log.edge, fault := .cmdErr c } :: s.log.faults } }

/-- A register that host writes leave alone (20_memory.md R56). -/
def Reg.ignoresWrites : Reg → Bool
  | .rxData | .lastMask | .lastCount | .anaWidth | .param | .lines | .perbit _ | .hist _ _ => true
  | .unmapped => true
  | .cmd | .status | .txData | .sampleRecv | .sampleExp | .hold _ => false

/-- The registers whose reads an accepted command may change at its acceptance edge: STATUS and LINES by
a link command (40_link.md R92), the analyzer's by RECORD and CLEAR (41_analyzer.md R121, R132). -/
def changesAtAcceptance : Instr → Reg → Bool
  | .reset, .status | .reset, .lines => true
  | .send _, .status | .send _, .lines => true
  | .receive _, .status | .receive _, .lines => true
  | .record _, .perbit _ | .record _, .hist _ _ | .record _, .lastMask | .record _, .lastCount => true
  | .clear _, .perbit _ | .clear _, .hist _ _ | .clear _, .lastMask | .clear _, .lastCount => true
  | .clear _, .anaWidth => true
  | _, _ => false

/-- The instance parameters are in their ranges (00_scope.md R9, R10). -/
structure Param.Legal (p : Param) : Prop where
  wmax_pos : 1 ≤ p.wmax.toNat
  unit_pos : 1 ≤ p.unitCycles.toNat

/-- What the analyzer keeps at every edge (10_state.md R38, R41, R42). -/
structure Analyzer.Ok (wmax : Nat) (a : Analyzer) : Prop where
  aw_le : a.aw.toNat ≤ wmax
  perbit_length : a.perbit.length = wmax
  hist_length : a.hist.length = wmax + 1
  row_length : ∀ r ∈ a.hist, r.length = wmax
  column_sum : ∀ p, (a.perbitAt p).toNat =
    ((List.range (wmax + 1)).map fun k => (a.histAt k p).toNat).sum
  row_zero : ∀ p, a.histAt 0 p = 0
  column_beyond : ∀ p, a.aw.toNat ≤ p → a.perbitAt p = 0 ∧ ∀ k, a.histAt k p = 0
  row_beyond : ∀ k, a.aw.toNat < k → ∀ p, a.histAt k p = 0
  lastMask_lt : a.lastMask.toNat < 2 ^ a.aw.toNat
  lastCount_eq : a.lastCount.toNat = popcount a.lastMask

/-- What STATUS and the fault record keep (10_state.md R31, 60_exceptions.md R151, R161). -/
structure State.ErrorsOk (s : State) : Prop where
  cause_none : s.status.cmdErr = false → s.status.cause = 0
  cause_recorded : s.status.cmdErr = true →
    ∃ r ∈ s.log.faults, ∃ c, r.fault = .cmdErr c ∧ causeCode c = s.status.cause
  ovf_recorded : s.status.ovf = true → ∃ r ∈ s.log.faults, r.fault = .ovf

/-- The lines as the controller's registers give them: `j` is the last event that has happened
(10_state.md R28; 40_link.md R100, R105, R107, R112). DataOut is left as it is where no bit of the
running command has been driven. -/
def State.expectedLines (s : State) : Lines :=
  let j := s.ctl.evt - 1
  let w := s.ctl.curW.toNat
  let low := { Lines.low with dataOut := s.lines.dataOut }
  match s.ctl.mode with
  | .idle => low
  | .resetting => { low with reset := j = 0 }
  | .sending =>
    { low with
      busClock := j ≤ 5 * w
      latch := 1 ≤ j ∧ j ≤ 5 * w ∧ (j - 1) % 5 = 1
      bitClock := 1 ≤ j ∧ j ≤ 5 * w ∧ (j - 1) % 5 = 3
      dataOut := if 1 ≤ j ∧ 1 ≤ w then s.ctl.txShift.getLsbD (min ((j - 1) / 5) (w - 1))
                 else s.lines.dataOut }
  | .receiving =>
    { low with
      readEnable := j ≤ 3 * w
      readAck := 1 ≤ j ∧ j ≤ 3 * w ∧ (j - 1) % 3 = 1 }

/-- What the link part keeps (10_state.md R24, R28, R30, R37; 40_link.md R92, R105, R112). -/
structure State.LinkOk (s : State) : Prop where
  width_le : s.ctl.curW ≤ s.param.wmax
  evt_range : s.busy = true → 1 ≤ s.ctl.evt ∧ s.ctl.evt ≤ s.program.length
  hold_pos : s.busy = true → 1 ≤ s.ctl.holdCnt.toNat
  lines_eq : s.lines = s.expectedLines
  sync_length : s.sync.length = s.param.syncStages.toNat
  bitIdx_sending : s.ctl.mode = .sending → 2 ≤ s.ctl.evt → s.ctl.evt ≤ 5 * s.ctl.curW.toNat + 1 →
    s.ctl.bitIdx.toNat = (s.ctl.evt - 2) / 5
  bitIdx_receiving : s.ctl.mode = .receiving → 2 ≤ s.ctl.evt → s.ctl.evt ≤ 3 * s.ctl.curW.toNat + 1 →
    s.ctl.bitIdx.toNat = (s.ctl.evt - 2) / 3
  rxShift_lt : s.ctl.mode = .receiving → s.ctl.rxShift.toNat < 2 ^ s.ctl.curW.toNat
  rxData_lt : s.rxData.toNat < 2 ^ s.param.wmax.toNat

/-- The clock edges until the running command completes, by its event list (40_link.md R92). -/
def State.remaining (s : State) : Nat :=
  if s.busy then
    max 1 s.ctl.holdCnt.toNat + ((s.program.drop s.ctl.evt).map fun e => s.waitLen e.wait).sum
  else 0

/-- The duration of RESET (40_link.md R100, 70_reset_and_hazards.md R191). -/
def State.resetCycles (s : State) : Nat := s.holdLen .rstHi + 1

/-- One bit slot of SEND (40_link.md R108). -/
def State.sendSlotCycles (s : State) : Nat :=
  s.holdLen .txSettle + s.holdLen .latchHi + s.holdLen .latchLo + s.holdLen .bclkHi + s.holdLen .bclkLo

/-- T_SEND (40_link.md R108). -/
def State.sendCycles (s : State) (w : Nat) : Nat :=
  s.holdLen .txStart + w * s.sendSlotCycles + s.holdLen .txEnd

/-- One bit slot of RECEIVE (40_link.md R113). -/
def State.receiveSlotCycles (s : State) : Nat :=
  s.holdLen .rxSample + s.holdLen .ackHi + s.holdLen .ackLo

/-- T_RECEIVE (40_link.md R113). -/
def State.receiveCycles (s : State) (w : Nat) : Nat :=
  s.holdLen .rxStart + w * s.receiveSlotCycles + s.holdLen .rxEnd

/-- STATE while a link command runs (40_link.md R92); RECORD and CLEAR never leave IDLE
(41_analyzer.md R120). -/
def linkMode : Instr → Option Mode
  | .reset => some .resetting
  | .send _ => some .sending
  | .receive _ => some .receiving
  | .record _ => none
  | .clear _ => none

/-- The edges from acceptance to completion (70_reset_and_hazards.md R191). -/
def State.cycles (s : State) : Instr → Nat
  | .reset => s.resetCycles
  | .send w => s.sendCycles w.toNat
  | .receive w => s.receiveCycles w.toNat
  | .record _ => 0
  | .clear _ => 0

/-- The time of event `j` of a list, counted from event 0 (40_link.md R92). -/
def State.eventTime (s : State) (es : List Event) (j : Nat) : Nat :=
  ((es.take j).map fun e => s.waitLen e.wait).sum

/-- What an action does to the lines when SEND transmits `tx` (40_link.md R100, R103, R110). -/
def lineEffect (tx : Word) (l : Lines) : Action → Lines
  | .drive n b => l.set n b
  | .txBit i => l.set .dataOut (tx.getLsbD i)
  | .sampleBit _ => l
  | .storeAndAck _ => l.set .readAck true

/-- The lines after the events of a list (40_link.md R92). -/
def replayLines (tx : Word) (es : List Event) (l : Lines) : Lines :=
  es.foldl (fun l e => lineEffect tx l e.act) l

/-- The DataIn pin at the edge of the coming cycle number `n`, from 0 (10_state.md R29). -/
def State.pinAt (s : State) (n : Nat) : Bool := s.pins.getD n (Config.dataInPin (s.log.edge + n))

/-- DataIn_sync at the edge of the coming cycle number `n`, from 0, if no reset comes between: the pin as
many edges earlier as the chain has stages (10_state.md R30, 70_reset_and_hazards.md R188). -/
def State.syncAt (s : State) (n : Nat) : Bool :=
  if n < s.sync.length then s.sync.getD (s.sync.length - 1 - n) false else s.pinAt (n - s.sync.length)

/-- The coming cycle in which a RECEIVE issued in cycle 0 takes sample `i` (40_link.md R92, R110). -/
def State.sampleTime (s : State) (i : Nat) : Nat := s.holdLen .rxStart + i * s.receiveSlotCycles

end Sys2Proof.Machine
end

