-- ==== Sys2Proof/Certificates/Slice0/Obligations.lean ====
section
/-! DEFINITION. The statements about BSX for the provers. OBLIGATIONS.json lists them in this order. -/

open Sys2Proof Sys2Proof.Machine

/-! ## Command words -/

/-- The words of 30_encoding.md R80, and the tables' other fields by R70, decode to their commands. -/
def Obligations.TableWordsDecode : Prop :=
  decode 0x00000001 = .ok .reset ∧
  decode 0x00000082 = .ok (.send 8) ∧ decode 0x00000092 = .ok (.send 9) ∧
  decode 0x00000083 = .ok (.receive 8) ∧ decode 0x00000093 = .ok (.receive 9) ∧
  decode 0x00000084 = .ok (.record 8) ∧ decode 0x00000094 = .ok (.record 9) ∧
  decode 0x00000085 = .ok (.clear 8) ∧ decode 0x00000095 = .ok (.clear 9) ∧
  decode 0x00000002 = .ok (.send 0) ∧ decode 0x00000004 = .ok (.record 0)

/-- 30_encoding.md R80: the command word is (WIDTH << 4) | OP, as a number 16 * WIDTH + OP, with the
opcodes of R74. -/
def Obligations.CommandWordIsWidthAndOpcode : Prop :=
  (encode .reset).toNat = 1 ∧
  ∀ w : Width, (encode (.send w)).toNat = 16 * w.toNat + 2 ∧
    (encode (.receive w)).toNat = 16 * w.toNat + 3 ∧
    (encode (.record w)).toNat = 16 * w.toNat + 4 ∧
    (encode (.clear w)).toNat = 16 * w.toNat + 5

/-- The decoder accepts exactly the encoder's words, each for its own command: no bit is dropped, and
every command has one word (30_encoding.md R70, R74, R77, R78). -/
def Obligations.DecodeAcceptsExactlyTheEncodings : Prop :=
  ∀ (v : Word) (i : Instr), decode v = .ok i ↔ v = encode i

/-- 30_encoding.md R77: the checks of a write to CMD, in their order, and acceptance. -/
def Obligations.CommandWriteIsJudgedInOrder : Prop :=
  ∀ (s : State) (a : Addr) (v : Word), regAt a = .cmd →
    let op := (v.extractLsb' 0 4).toNat
    let w := v.extractLsb' 4 5
    let rsv := v.extractLsb' 9 23
    (s.ctl.mode ≠ .idle → s.busAccess (.write a v) = .next (s.refusedWith .busyCmd)) ∧
    (s.ctl.mode = .idle →
      (op ∉ [1, 2, 3, 4, 5] → s.busAccess (.write a v) = .next (s.refusedWith .badOp)) ∧
      (op ∈ [1, 2, 3, 4, 5] →
        (rsv ≠ 0 ∨ (op = 1 ∧ w ≠ 0) → s.busAccess (.write a v) = .next (s.refusedWith .rsvBits)) ∧
        (rsv = 0 → (op = 1 → w = 0) →
          (op ∈ [2, 3, 5] → s.param.wmax < w →
            s.busAccess (.write a v) = .next (s.refusedWith .badWidth)) ∧
          (op = 4 → s.ana.aw < w → s.busAccess (.write a v) = .next (s.refusedWith .badWidth)) ∧
          ((op ∈ [2, 3, 5] → w ≤ s.param.wmax) → (op = 4 → w ≤ s.ana.aw) →
            ∃ i : Instr, i.opcode.toNat = op ∧ i.width = w ∧
              s.busAccess (.write a v) = exec i s))))

/-! ## One clock edge -/

/-- In a cycle with rst = 0 the step does the host's access, whatever it is, and then the rest of the edge
(20_memory.md R51, 70_reset_and_hazards.md R190): the controller's edge if a command was running before it,
and moving the inputs on, counting the edge, noting the changed lines and shifting the synchroniser. The
access of a host that writes a command word to CMD is that command's exec. -/
def Obligations.StepRunsTheDecodedCommand : Prop :=
  ∀ (s : State) (op : BusOp), s.hostCycle = { rst := false, bus := op } →
    (∃ t, s.busAccess op = .next t ∧ step s = .next (s.finishEdge t) ∧
      let u := if s.busy then t.advance else t
      s.finishEdge t = { u with
        sync := (u.pin :: u.sync).take u.sync.length
        host := u.host.tail
        pins := u.pins.tail
        log := { u.log with
          edge := u.log.edge + 1
          lineTrace := (s.lines.changes u.lines).map (fun c => ⟨u.log.edge, c.1, c.2⟩)
            ++ u.log.lineTrace } }) ∧
    (op = .none → s.busAccess op = .next s) ∧
    ∀ (i : Instr) (a : Addr) (v : Word), op = .write a v → regAt a = .cmd → decode v = .ok i →
      s.busAccess op = exec i s

/-- 93_implementation_defined.md: every state has a defined next state at every edge. -/
def Obligations.EveryEdgeHasANextState : Prop := ∀ s : State, ∃ t, step s = .next t

/-- In IDLE, with no host access, an edge changes nothing but the inputs, the edge count and the
synchroniser (60_exceptions.md R170, 10_state.md R30). -/
def Obligations.QuietEdgeInIdleKeepsTheState : Prop :=
  ∀ s : State, s.busy = false → s.hostCycle = { rst := false, bus := .none } →
    step s = .next { s with
      sync := (s.pin :: s.sync).take s.sync.length
      host := s.host.tail
      pins := s.pins.tail
      log := { s.log with edge := s.log.edge + 1 } }

/-- 20_memory.md R58: a read changes nothing but the model's record of what reads returned (the model's
own field, log entry 6); R51: it
returns the register as it stood before the edge. -/
def Obligations.ReadsHaveNoSideEffect : Prop :=
  ∀ (s : State) (a : Addr), s.hostCycle = { rst := false, bus := .read a } →
    ∃ t, step { s with host := { rst := false, bus := .none } :: s.host.tail } = .next t ∧
      step s = .next { t with
        log := { t.log with reads := ⟨s.log.edge, a, s.read a⟩ :: t.log.reads } }

/-! ## The register space -/

/-- 20_memory.md R54: address bits 1:0 are ignored, and no access traps. -/
def Obligations.AddressLowBitsAreIgnored : Prop :=
  ∀ (s : State) (a : Addr) (v : Word),
    s.read a = s.read (a &&& 0x1FFC) ∧
    ∃ t, s.busAccess (.write a v) = .next t ∧ s.busAccess (.write (a &&& 0x1FFC) v) = .next t

/-- 20_memory.md R57: the counter windows, at the offsets of R52. -/
def Obligations.CounterWindowsShowTheTables : Prop :=
  ∀ (s : State) (k p : Nat), k < 32 → p < 32 →
    s.read (BitVec.ofNat 13 (0x100 + 4 * p)) =
      (if p < s.param.wmax.toNat then s.ana.perbitAt p else 0) ∧
    s.read (BitVec.ofNat 13 (0x800 + 0x80 * k + 4 * p)) =
      (if k ≤ s.param.wmax.toNat ∧ p < s.param.wmax.toNat then s.ana.histAt k p else 0)

/-- The fields of STATUS, LINES and PARAM at the places of 10_state.md R31, R35, R36, as numbers, every
other bit 0; and ANA_WIDTH, LAST_MASK and LAST_COUNT (R38, R42). -/
def Obligations.StatusLinesParamWords : Prop :=
  ∀ s : State,
    (s.read 0x004).toNat = (if s.ctl.mode = .idle then 0 else 1) +
      2 * (match s.ctl.mode with
        | .idle => 0
        | .resetting => 1
        | .sending => 2
        | .receiving => 3) +
      16 * s.status.cmdErr.toNat + 32 * s.status.ovf.toNat + 256 * s.status.cause.toNat ∧
    (s.read 0x028).toNat = s.lines.busClock.toNat + 2 * s.lines.bitClock.toNat +
      4 * s.lines.latch.toNat + 8 * s.lines.dataOut.toNat + 16 * s.lines.reset.toNat +
      32 * s.lines.readEnable.toNat + 64 * s.lines.readAck.toNat + 128 * s.dataInSync.toNat ∧
    (s.read 0x024).toNat =
      s.param.wmax.toNat + 256 * s.param.syncStages.toNat + 65536 * s.param.unitCycles.toNat ∧
    (s.read 0x020).toNat = s.ana.aw.toNat ∧ s.read 0x018 = s.ana.lastMask ∧
    (s.read 0x01C).toNat = s.ana.lastCount.toNat

/-- 60_exceptions.md R152: the four kinds of writable register while a command runs and in IDLE, and the
writes that are never refused (20_memory.md R56, 10_state.md R31). -/
def Obligations.RegisterWritesAreRefusedOnlyWhileBusy : Prop :=
  ∀ (s : State) (a : Addr) (v : Word),
    (s.busy = true →
      (regAt a ∈ [.txData, .sampleRecv, .sampleExp] ∨ ∃ h, regAt a = .hold h) →
      s.busAccess (.write a v) = .next (s.refusedWith .busyWrite)) ∧
    (s.busy = false →
      (regAt a = .txData → s.busAccess (.write a v) = .next { s with txData := v }) ∧
      (regAt a = .sampleRecv → s.busAccess (.write a v) = .next { s with sampleRecv := v }) ∧
      (regAt a = .sampleExp → s.busAccess (.write a v) = .next { s with sampleExp := v }) ∧
      (∀ h, regAt a = .hold h →
        ∃ hs : Holds, s.busAccess (.write a v) = .next { s with holds := hs } ∧
          hs.get h = v.extractLsb' 0 16 ∧ ∀ g, g ≠ h → hs.get g = s.holds.get g)) ∧
    (regAt a = .status → ∃ st, s.busAccess (.write a v) = .next { s with status := st }) ∧
    ((regAt a).ignoresWrites = true → s.busAccess (.write a v) = .next s)

/-- What a register holds after an accepted write is what a read of it returns: all 32 bits of the data
registers (10_state.md R37), bits 15:0 of a hold register with zeros above (R33). -/
def Obligations.WrittenRegistersReadBack : Prop :=
  ∀ (s t : State) (a : Addr) (v : Word), s.busy = false → s.busAccess (.write a v) = .next t →
    (regAt a ∈ [.txData, .sampleRecv, .sampleExp] → t.read a = v) ∧
    (∀ h, regAt a = .hold h → (t.read a).toNat = v.toNat % 2 ^ 16)

/-- 60_exceptions.md R160: a STATUS write clears what its bits 4 and 5 select, at any time; a refusal
while CMDERR = 1 changes no STATUS bit, one after the clear records its cause anew; and set error bits
change nothing of what a command does. -/
def Obligations.ErrorBitsAreClearedAndBlockNothing : Prop :=
  (∀ (s : State) (a : Addr) (v : Word), regAt a = .status →
    s.busAccess (.write a v) = .next { s with status :=
      { cmdErr := s.status.cmdErr && !v.getLsbD 4
        ovf := s.status.ovf && !v.getLsbD 5
        cause := if v.getLsbD 4 then 0 else s.status.cause } }) ∧
  (∀ (s : State) (c : Cause),
    (s.status.cmdErr = true → (s.raiseCmdErr c).status = s.status) ∧
    (s.status.cmdErr = false → (s.raiseCmdErr c).status.cause = causeCode c)) ∧
  (∀ (op : BusOp) (s t : State) (f : Status), s.busAccess op = .next t →
    ∃ u, State.busAccess op { s with status := f } = .next u ∧
      u.ctl = t.ctl ∧ u.lines = t.lines ∧ u.ana = t.ana ∧ u.rxData = t.rxData ∧ u.holds = t.holds ∧
      u.txData = t.txData ∧ u.sampleRecv = t.sampleRecv ∧ u.sampleExp = t.sampleExp ∧
      u.log.faults = t.log.faults)

/-- 20_memory.md R52: which register each offset reaches, and that every other offset is unmapped; bits 1:0
play no part (R54). -/
def Obligations.RegisterMapByOffset : Prop :=
  regAt 0x000 = .cmd ∧ regAt 0x004 = .status ∧ regAt 0x008 = .txData ∧ regAt 0x00C = .rxData ∧
  regAt 0x010 = .sampleRecv ∧ regAt 0x014 = .sampleExp ∧ regAt 0x018 = .lastMask ∧
  regAt 0x01C = .lastCount ∧ regAt 0x020 = .anaWidth ∧ regAt 0x024 = .param ∧ regAt 0x028 = .lines ∧
  regAt 0x040 = .hold .rstHi ∧ regAt 0x044 = .hold .txStart ∧ regAt 0x048 = .hold .txSettle ∧
  regAt 0x04C = .hold .latchHi ∧ regAt 0x050 = .hold .latchLo ∧ regAt 0x054 = .hold .bclkHi ∧
  regAt 0x058 = .hold .bclkLo ∧ regAt 0x05C = .hold .txEnd ∧ regAt 0x060 = .hold .rxStart ∧
  regAt 0x064 = .hold .rxSample ∧ regAt 0x068 = .hold .ackHi ∧ regAt 0x06C = .hold .ackLo ∧
  regAt 0x070 = .hold .rxEnd ∧
  (∀ p < 32, regAt (BitVec.ofNat 13 (0x100 + 4 * p)) = .perbit p) ∧
  (∀ k < 32, ∀ p < 32, regAt (BitVec.ofNat 13 (0x800 + 0x80 * k + 4 * p)) = .hist k p) ∧
  ∀ a : Addr, regAt a = regAt (BitVec.ofNat 13 (4 * (a.toNat / 4))) ∧
    ((0x02C ≤ a.toNat ∧ a.toNat < 0x040) ∨ (0x074 ≤ a.toNat ∧ a.toNat < 0x100) ∨
      (0x180 ≤ a.toNat ∧ a.toNat < 0x800) ∨ 0x1800 ≤ a.toNat →
      regAt a = .unmapped)

/-- What a read returns at the offsets of 20_memory.md R52 whose words StatusLinesParamWords and
CounterWindowsShowTheTables do not give: CMD reads 0 (30_encoding.md R70), the data registers as they stand
(10_state.md R37), a hold register its 16 bits with zeros above (R33), an unmapped offset 0 (20_memory.md
R56). -/
def Obligations.RegistersReadAtTheirOffsets : Prop :=
  ∀ s : State,
    s.read 0x000 = 0 ∧ s.read 0x008 = s.txData ∧ s.read 0x00C = s.rxData ∧ s.read 0x010 = s.sampleRecv ∧
    s.read 0x014 = s.sampleExp ∧
    (s.read 0x040).toNat = s.holds.rstHi.toNat ∧ (s.read 0x044).toNat = s.holds.txStart.toNat ∧
    (s.read 0x048).toNat = s.holds.txSettle.toNat ∧ (s.read 0x04C).toNat = s.holds.latchHi.toNat ∧
    (s.read 0x050).toNat = s.holds.latchLo.toNat ∧ (s.read 0x054).toNat = s.holds.bclkHi.toNat ∧
    (s.read 0x058).toNat = s.holds.bclkLo.toNat ∧ (s.read 0x05C).toNat = s.holds.txEnd.toNat ∧
    (s.read 0x060).toNat = s.holds.rxStart.toNat ∧ (s.read 0x064).toNat = s.holds.rxSample.toNat ∧
    (s.read 0x068).toNat = s.holds.ackHi.toNat ∧ (s.read 0x06C).toNat = s.holds.ackLo.toNat ∧
    (s.read 0x070).toNat = s.holds.rxEnd.toNat ∧
    ∀ a : Addr,
      (0x02C ≤ a.toNat ∧ a.toNat < 0x040) ∨ (0x074 ≤ a.toNat ∧ a.toNat < 0x100) ∨
      (0x180 ≤ a.toNat ∧ a.toNat < 0x800) ∨ 0x1800 ≤ a.toNat →
      s.read a = 0

/-- What a write does at each offset of 20_memory.md R52: CMD issues the command (30_encoding.md R70), STATUS
clears flags (10_state.md R31), in IDLE the data and hold registers store (R33, R37), while a command runs
they refuse (60_exceptions.md R152), and the read-only and unmapped offsets do nothing (20_memory.md R56). -/
def Obligations.WritesReachTheirOffsets : Prop :=
  ∀ (s : State) (v : Word),
    (∀ i : Instr, s.busAccess (.write 0x000 (encode i)) = exec i s) ∧
    s.busAccess (.write 0x004 v) = .next { s with status :=
      { cmdErr := s.status.cmdErr && !v.getLsbD 4
        ovf := s.status.ovf && !v.getLsbD 5
        cause := if v.getLsbD 4 then 0 else s.status.cause } } ∧
    (s.busy = false → let h := v.extractLsb' 0 16
      s.busAccess (.write 0x008 v) = .next { s with txData := v } ∧
      s.busAccess (.write 0x010 v) = .next { s with sampleRecv := v } ∧
      s.busAccess (.write 0x014 v) = .next { s with sampleExp := v } ∧
      s.busAccess (.write 0x040 v) = .next { s with holds := { s.holds with rstHi := h } } ∧
      s.busAccess (.write 0x044 v) = .next { s with holds := { s.holds with txStart := h } } ∧
      s.busAccess (.write 0x048 v) = .next { s with holds := { s.holds with txSettle := h } } ∧
      s.busAccess (.write 0x04C v) = .next { s with holds := { s.holds with latchHi := h } } ∧
      s.busAccess (.write 0x050 v) = .next { s with holds := { s.holds with latchLo := h } } ∧
      s.busAccess (.write 0x054 v) = .next { s with holds := { s.holds with bclkHi := h } } ∧
      s.busAccess (.write 0x058 v) = .next { s with holds := { s.holds with bclkLo := h } } ∧
      s.busAccess (.write 0x05C v) = .next { s with holds := { s.holds with txEnd := h } } ∧
      s.busAccess (.write 0x060 v) = .next { s with holds := { s.holds with rxStart := h } } ∧
      s.busAccess (.write 0x064 v) = .next { s with holds := { s.holds with rxSample := h } } ∧
      s.busAccess (.write 0x068 v) = .next { s with holds := { s.holds with ackHi := h } } ∧
      s.busAccess (.write 0x06C v) = .next { s with holds := { s.holds with ackLo := h } } ∧
      s.busAccess (.write 0x070 v) = .next { s with holds := { s.holds with rxEnd := h } }) ∧
    (s.busy = true →
      ∀ a ∈ ([0x008, 0x010, 0x014, 0x040, 0x044, 0x048, 0x04C, 0x050, 0x054, 0x058, 0x05C, 0x060, 0x064,
        0x068, 0x06C, 0x070] : List Addr),
        s.busAccess (.write a v) = .next (s.refusedWith .busyWrite)) ∧
    (∀ a : Addr, a ∈ ([0x00C, 0x018, 0x01C, 0x020, 0x024, 0x028] : List Addr) ∨
      (0x02C ≤ a.toNat ∧ a.toNat < 0x040) ∨ (0x074 ≤ a.toNat ∧ a.toNat < 0x2000) →
      s.busAccess (.write a v) = .next s)

/-! ## Block reset -/

/-- 70_reset_and_hazards.md R182, at the machine's reset state, at WMAX = 9 and SYNC_STAGES = 2. -/
def Obligations.ResetStateHasTheResetValues : Prop :=
  let s := State.reset
  s.ctl.mode = .idle ∧ s.ctl.evt = 0 ∧ s.ctl.holdCnt = 0 ∧ s.ctl.curW = 0 ∧ s.ctl.bitIdx = 0 ∧
  s.ctl.txShift = 0 ∧ s.ctl.rxShift = 0 ∧ (∀ l, s.lines.get l = false) ∧ s.sync = [false, false] ∧
  s.status.cmdErr = false ∧ s.status.ovf = false ∧ s.status.cause = 0 ∧ s.holds.get .rstHi = 15 ∧
  (∀ h ∈ [HoldReg.txStart, .txEnd, .rxStart], s.holds.get h = 10) ∧
  (∀ h ∈ [HoldReg.txSettle, .latchHi, .latchLo, .bclkHi, .bclkLo, .rxSample, .ackHi, .ackLo, .rxEnd],
    s.holds.get h = 5) ∧
  s.txData = 0 ∧ s.rxData = 0 ∧ s.sampleRecv = 0 ∧ s.sampleExp = 0 ∧ s.ana.aw = 9 ∧
  (∀ p, s.ana.perbitAt p = 0) ∧ (∀ k p, s.ana.histAt k p = 0) ∧ s.ana.lastMask = 0 ∧
  s.ana.lastCount = 0 ∧ s.read 0x004 = 0 ∧ s.read 0x028 = 0 ∧
  s.param = { wmax := 9, syncStages := 2, unitCycles := Config.unitCycles } ∧
  ∀ u : State, u.blockReset.param = u.param

/-- 70_reset_and_hazards.md R180, R181: an edge with rst = 1 gives every piece of BSX state its reset value,
whatever the state and whatever the host's access, and the host's access does nothing; PARAM stays. A read
in that cycle returns the register's reset value, in the first such cycle too (log entry 10, DEDUCED). That
the fault and sample records survive is the model's choice (log entry 6), and PARAM as a field too (log
entry 4). -/
def Obligations.BlockResetOverridesEverything : Prop :=
  ∀ s : State, s.hostCycle.rst = true → ∃ t, step s = .next t ∧
    t.ctl.mode = .idle ∧ t.ctl.evt = 0 ∧ t.ctl.holdCnt = 0 ∧ t.ctl.curW = 0 ∧ t.ctl.bitIdx = 0 ∧
    t.ctl.txShift = 0 ∧ t.ctl.rxShift = 0 ∧ (∀ l, t.lines.get l = false) ∧
    t.sync = List.replicate s.param.syncStages.toNat false ∧
    t.status = { cmdErr := false, ovf := false, cause := 0 } ∧
    (∀ h, t.holds.get h = if h = .rstHi then 15
      else if h ∈ [HoldReg.txStart, .txEnd, .rxStart] then 10 else 5) ∧
    t.txData = 0 ∧ t.rxData = 0 ∧ t.sampleRecv = 0 ∧ t.sampleExp = 0 ∧
    t.ana.aw = s.param.wmax ∧ (∀ p, t.ana.perbitAt p = 0) ∧ (∀ k p, t.ana.histAt k p = 0) ∧
    t.ana.lastMask = 0 ∧ t.ana.lastCount = 0 ∧ t.param = s.param ∧
    t.log.faults = s.log.faults ∧ t.log.samples = s.log.samples ∧
    (∀ a, s.hostCycle.bus = .read a →
      t.log.reads = ⟨s.log.edge, a, State.read { t with pins := s.pins, log := s.log } a⟩ :: s.log.reads) ∧
    ((∀ a, s.hostCycle.bus ≠ .read a) → t.log.reads = s.log.reads)

/-! ## The five commands at their acceptance edge -/

/-- RESET in IDLE is accepted: STATE is RESETTING, Reset is 1, and its hold starts; nothing else changes
(40_link.md R100, R92). That EVT counts E0 as done (log entry 8) and that CUR_W keeps its value (log entry 9;
10_state.md R24 and 30_encoding.md R73 could be read as CUR_W = 0) is the model's choice. -/
def Obligations.ResetIsAcceptedInIdle : Prop :=
  ∀ s : State, s.busy = false →
    exec .reset s = .next { s with
      ctl := { s.ctl with
        mode := .resetting
        evt := 1
        holdCnt := BitVec.ofNat 32 (max 1 (s.holds.rstHi.toNat * s.param.unitCycles.toNat)) }
      lines := { s.lines with reset := true } }

/-- SEND w in IDLE with w at most WMAX is accepted: STATE is SENDING, CUR_W is w, TXDATA is latched,
BusClock is 1, and its hold starts; nothing else changes (40_link.md R103, R92; EVT by log entry 8). -/
def Obligations.SendIsAcceptedInIdle : Prop :=
  ∀ (s : State) (w : Width), s.busy = false → w ≤ s.param.wmax →
    exec (.send w) s = .next { s with
      ctl := { s.ctl with
        mode := .sending
        evt := 1
        holdCnt := BitVec.ofNat 32 (max 1 (s.holds.txStart.toNat * s.param.unitCycles.toNat))
        curW := w
        txShift := s.txData }
      lines := { s.lines with busClock := true } }

/-- RECEIVE w in IDLE with w at most WMAX is accepted: STATE is RECEIVING, CUR_W is w, RXSHIFT is 0,
ReadEnable is 1, and its hold starts; nothing else changes (40_link.md R110, R92, R115; EVT by log
entry 8). -/
def Obligations.ReceiveIsAcceptedInIdle : Prop :=
  ∀ (s : State) (w : Width), s.busy = false → w ≤ s.param.wmax →
    exec (.receive w) s = .next { s with
      ctl := { s.ctl with
        mode := .receiving
        evt := 1
        holdCnt := BitVec.ofNat 32 (max 1 (s.holds.rxStart.toNat * s.param.unitCycles.toNat))
        curW := w
        rxShift := 0 }
      lines := { s.lines with readEnable := true } }

/-- RECORD w in IDLE with w at most AW, when no counter it would increment is at 2^32 - 1: the counters
of the mismatched positions grow by exactly 1, the LAST registers are written, nothing else changes
(41_analyzer.md R121). -/
def Obligations.RecordCountsTheMismatch : Prop :=
  ∀ (s : State) (w : Width), s.busy = false → w ≤ s.ana.aw → s.ana.Ok s.param.wmax.toNat →
    let m := BitVec.ofNat 32 (s.sampleRecv.toNat % 2 ^ w.toNat) ^^^
      BitVec.ofNat 32 (s.sampleExp.toNat % 2 ^ w.toNat)
    let k := popcount m
    (∀ p < w.toNat, m.getLsbD p = true →
      s.ana.perbitAt p ≠ BitVec.allOnes 32 ∧ s.ana.histAt k p ≠ BitVec.allOnes 32) →
    ∃ t, exec (.record w) s = .next t ∧ t = { s with ana := t.ana } ∧ t.ana.aw = s.ana.aw ∧
      (∀ p, (t.ana.perbitAt p).toNat = (s.ana.perbitAt p).toNat + (m.getLsbD p).toNat) ∧
      (∀ j p, (t.ana.histAt j p).toNat =
        (s.ana.histAt j p).toNat + if j = k then (m.getLsbD p).toNat else 0) ∧
      t.ana.lastMask = m ∧ t.ana.lastCount.toNat = k

/-- 60_exceptions.md R155: a RECORD that would take a counter past 2^32 - 1 sets OVF, and nothing else
changes but the model's fault record (R161). -/
def Obligations.RecordOverflowSetsOnlyOvf : Prop :=
  ∀ (s : State) (w : Width) (p : Nat), s.busy = false → w ≤ s.ana.aw → p < w.toNat →
    s.sampleRecv.getLsbD p ≠ s.sampleExp.getLsbD p →
    (s.ana.perbitAt p = BitVec.allOnes 32 ∨ s.ana.histAt (s.wrongCount w) p = BitVec.allOnes 32) →
    exec (.record w) s = .next { s with
      status := { s.status with ovf := true }
      log := { s.log with faults := ⟨s.log.edge, .ovf⟩ :: s.log.faults } }

/-- CLEAR w in IDLE with w at most WMAX: AW is w, every counter and both LAST registers are 0, nothing else
changes (41_analyzer.md R132). -/
def Obligations.ClearStartsASession : Prop :=
  ∀ (s : State) (w : Width), s.busy = false → w ≤ s.param.wmax →
    ∃ t, exec (.clear w) s = .next t ∧ t = { s with ana := t.ana } ∧ t.ana.aw = w ∧
      (∀ p, t.ana.perbitAt p = 0) ∧ (∀ k p, t.ana.histAt k p = 0) ∧ t.ana.lastMask = 0 ∧
      t.ana.lastCount = 0 ∧ t.ana.perbit.length = s.param.wmax.toNat ∧
      t.ana.hist.length = s.param.wmax.toNat + 1

/-- Every command while a command runs is refused with cause 1 (60_exceptions.md R150, R153). -/
def Obligations.CommandsWhileBusyAreRefused : Prop :=
  ∀ (i : Instr) (s : State), s.busy = true → exec i s = .next (s.refusedWith .busyCmd)

/-- A width above WMAX, or above AW for RECORD, is refused with cause 4 (30_encoding.md R76, R77). -/
def Obligations.WidthsOutOfRangeAreRefused : Prop :=
  ∀ (s : State) (w : Width), s.busy = false →
    (s.param.wmax < w → exec (.send w) s = .next (s.refusedWith .badWidth) ∧
      exec (.receive w) s = .next (s.refusedWith .badWidth) ∧
      exec (.clear w) s = .next (s.refusedWith .badWidth)) ∧
    (s.ana.aw < w → exec (.record w) s = .next (s.refusedWith .badWidth))

/-- The frame of every command over the register space, byte by byte: at the acceptance edge a command
changes the reads of no register but STATUS and those its rule names (40_link.md R100, R103, R110;
41_analyzer.md R121, R132). -/
def Obligations.CommandsLeaveOtherRegistersAlone : Prop :=
  ∀ (i : Instr) (s t : State), exec i s = .next t →
    ∀ a : Addr, regAt a ≠ .status → changesAtAcceptance i (regAt a) = false →
      t.readByte a = s.readByte a

/-! ## RECORD: laws of the counts -/

/-- 41_analyzer.md R125, and R126 by w = 0: where the two words agree in their low w bits no counter
changes and the LAST registers become 0. -/
def Obligations.EqualWordsChangeNoCounter : Prop :=
  ∀ (s : State) (w : Width), s.busy = false → w ≤ s.ana.aw →
    (∀ p < w.toNat, s.sampleRecv.getLsbD p = s.sampleExp.getLsbD p) →
    exec (.record w) s = .next { s with ana := { s.ana with lastMask := 0, lastCount := 0 } }

/-- Bits of SAMPLE_RECV and SAMPLE_EXP at and above w have no effect on RECORD w (41_analyzer.md R127,
30_encoding.md R75). -/
def Obligations.RecordIgnoresUpperBits : Prop :=
  ∀ (s : State) (w : Width) (r x : Word),
    (∀ p < w.toNat, r.getLsbD p = s.sampleRecv.getLsbD p ∧ x.getLsbD p = s.sampleExp.getLsbD p) →
    ∀ t, exec (.record w) s = .next t →
      exec (.record w) { s with sampleRecv := r, sampleExp := x } =
        .next { t with sampleRecv := r, sampleExp := x }

/-- 41_analyzer.md R129: a RECORD that is not refused adds exactly k to the sum of row k, for its
wrong-bit count k, and leaves the sum of every other row. -/
def Obligations.RecordAddsKToRowK : Prop :=
  ∀ (s t : State) (w : Width), s.busy = false → w ≤ s.ana.aw → s.ana.Ok s.param.wmax.toNat →
    exec (.record w) s = .next t → t.status = s.status → t.log.faults = s.log.faults →
    ∀ j, ((List.range s.param.wmax.toNat).map fun p => (t.ana.histAt j p).toNat).sum =
      ((List.range s.param.wmax.toNat).map fun p => (s.ana.histAt j p).toNat).sum +
        if j = s.wrongCount w then s.wrongCount w else 0

/-! ## The running command -/

/-- While a hold lasts, an edge with no host access takes 1 from HOLDCNT, and changes nothing else but the
inputs, the edge count and the synchroniser (10_state.md R24, R30, 40_link.md R92; how HOLDCNT counts is the
model's choice, log entry 8). -/
def Obligations.HoldCountsDown : Prop :=
  ∀ s : State, s.busy = true → 1 < s.ctl.holdCnt.toNat →
    s.hostCycle = { rst := false, bus := .none } →
    ∃ d : BitVec 32, d.toNat + 1 = s.ctl.holdCnt.toNat ∧
      step s = .next { s with
        ctl := { s.ctl with holdCnt := d }
        sync := (s.pin :: s.sync).take s.sync.length
        host := s.host.tail
        pins := s.pins.tail
        log := { s.log with edge := s.log.edge + 1 } }

/-- Whatever the host does, an edge without block reset brings the running command exactly one cycle
nearer its completion, and it completes when none is left (40_link.md R92, R93). -/
def Obligations.EveryEdgeBringsCompletionNearer : Prop :=
  ∀ s : State, s.busy = true → s.hostCycle.rst = false →
    ∃ t, step s = .next t ∧ t.remaining + 1 = s.remaining ∧
      t.ctl.mode = (if s.remaining = 1 then .idle else s.ctl.mode)

/-- The frame of an edge of a running command, inside a hold, at an event or at completion (40_link.md R93,
the corner cases of R100; 20_memory.md R66; 10_state.md R32): the operands, the hold registers, the
analyzer, PARAM, the command's width and its latched word keep their values, and STATUS and the records of
faults and reads (the model's own, log entries 5 and 6) are what the host's access alone leaves, so what
they were where the host does not write. -/
def Obligations.RunningCommandKeepsTheRest : Prop :=
  ∀ s : State, s.busy = true → s.hostCycle.rst = false →
    ∃ t a, step s = .next t ∧ s.busAccess s.hostCycle.bus = .next a ∧
      t.holds = s.holds ∧ t.txData = s.txData ∧ t.sampleRecv = s.sampleRecv ∧
      t.sampleExp = s.sampleExp ∧ t.ana = s.ana ∧ t.param = s.param ∧ t.ctl.txShift = s.ctl.txShift ∧
      t.ctl.curW = s.ctl.curW ∧ t.status = a.status ∧ t.log.faults = a.log.faults ∧
      t.log.reads = a.log.reads ∧
      ((∀ x v, s.hostCycle.bus ≠ .write x v) → t.status = s.status ∧ t.log.faults = s.log.faults) ∧
      (t.rxData = s.rxData ∨
        (s.ctl.mode = .receiving ∧ t.ctl.mode = .idle ∧ t.rxData = s.ctl.rxShift))

/-- The cycles from acceptance to completion, as the event lists give them, are the closed forms of
70_reset_and_hazards.md R191 (40_link.md R100, R108, R113), and with the reset defaults the numbers of its
last column; RECORD and CLEAR never set BUSY. -/
def Obligations.CommandDurations : Prop :=
  (∀ (i : Instr) (s t : State), s.busy = false → i.wellFormed s.param.wmax = true →
    exec i s = .next t → t.remaining = s.cycles i) ∧
  (∀ (s : State) (w : Nat), 1 ≤ s.param.unitCycles.toNat → s.holds = Holds.reset →
    s.resetCycles = 15 * s.param.unitCycles.toNat + 1 ∧
    s.sendCycles w = (20 + 25 * w) * s.param.unitCycles.toNat ∧
    s.receiveCycles w = (15 + 15 * w) * s.param.unitCycles.toNat)

/-- 40_link.md R92: a link command issued in IDLE runs for exactly the cycles of R191, whatever the host
writes meanwhile: STATE is the command's after each of these edges and IDLE after the next one. -/
def Obligations.LinkCommandsRunToCompletion : Prop :=
  ∀ (s : State) (i : Instr) (m : Mode), linkMode i = some m → s.busy = false →
    i.wellFormed s.param.wmax = true → s.issues i → s.noReset (s.cycles i + 1) →
    (∀ n, 1 ≤ n → n ≤ s.cycles i →
      ∃ t, Host.Core.run Sys2Proof.core n s = .next t ∧ t.ctl.mode = m) ∧
    ∃ t, Host.Core.run Sys2Proof.core (s.cycles i + 1) s = .next t ∧ t.ctl.mode = .idle

/-- 40_link.md R92: event j of the command happens at its edge t_j, and through its hold of d cycles the
lines stand as the first j + 1 events leave them, EVT is j + 1 and HOLDCNT counts the rest of the hold
(EVT and HOLDCNT as the model counts them, log entry 8). -/
def Obligations.LinkEventsHappenAtTheirEdges : Prop :=
  ∀ (s : State) (i : Instr) (m : Mode), linkMode i = some m → s.busy = false →
    i.wellFormed s.param.wmax = true → s.issues i →
    let es := events m i.width.toNat
    ∀ (j : Nat) (e : Event) (r : Nat), es[j]? = some e → r < s.waitLen e.wait →
      s.noReset (s.eventTime es j + r + 1) →
      ∃ t, Host.Core.run Sys2Proof.core (s.eventTime es j + r + 1) s = .next t ∧
        t.ctl.mode = m ∧ t.ctl.evt = j + 1 ∧ t.ctl.holdCnt.toNat + r = s.waitLen e.wait ∧
        t.lines = replayLines s.txData (es.take (j + 1)) s.lines

/-- 40_link.md R100, with R90 and R92: from a state that keeps the link's invariant, RESET holds Reset at 1
for d(H_RST_HI) cycles, then at 0 for one, and completes; no other line changes. -/
def Obligations.ResetStepsLastTheirHolds : Prop :=
  ∀ s : State, s.LinkOk → s.busy = false → s.issues .reset →
    let d := fun h : BitVec 16 => max 1 (h.toNat * s.param.unitCycles.toNat)
    let idle := { Lines.low with dataOut := s.lines.dataOut }
    let shows := fun (n : Nat) (m : Mode) (l : Lines) => s.noReset (n + 1) →
      ∃ t, Host.Core.run Sys2Proof.core (n + 1) s = .next t ∧ t.ctl.mode = m ∧ t.lines = l
    (∀ r < d s.holds.rstHi, shows r .resetting { idle with reset := true }) ∧
    shows (d s.holds.rstHi) .resetting idle ∧
    shows (d s.holds.rstHi + 1) .idle idle

/-- 40_link.md R103, with R90 and R92: from a state that keeps the link's invariant, every step of SEND w
with its line values and the hold register it lasts for, counted from the acceptance edge, and after the
last hold its completion. -/
def Obligations.SendStepsLastTheirHolds : Prop :=
  ∀ (s : State) (w : Width), s.LinkOk → s.busy = false → w ≤ s.param.wmax → s.issues (.send w) →
    let d := fun h : BitVec 16 => max 1 (h.toNat * s.param.unitCycles.toNat)
    let slot := fun i : Nat => d s.holds.txStart + i * (d s.holds.txSettle + d s.holds.latchHi +
      d s.holds.latchLo + d s.holds.bclkHi + d s.holds.bclkLo)
    let shows := fun (n : Nat) (m : Mode) (l : Lines) => s.noReset (n + 1) →
      ∃ t, Host.Core.run Sys2Proof.core (n + 1) s = .next t ∧ t.ctl.mode = m ∧ t.lines = l
    let last := if w = 0 then s.lines.dataOut else s.txData.getLsbD (w.toNat - 1)
    let start := { Lines.low with busClock := true, dataOut := s.lines.dataOut }
    (∀ r < d s.holds.txStart, shows r .sending start) ∧
    (∀ i < w.toNat,
      let drive := { Lines.low with busClock := true, dataOut := s.txData.getLsbD i }
      (∀ r < d s.holds.txSettle, shows (slot i + r) .sending drive) ∧
      (∀ r < d s.holds.latchHi,
        shows (slot i + d s.holds.txSettle + r) .sending { drive with latch := true }) ∧
      (∀ r < d s.holds.latchLo,
        shows (slot i + d s.holds.txSettle + d s.holds.latchHi + r) .sending drive) ∧
      (∀ r < d s.holds.bclkHi,
        shows (slot i + d s.holds.txSettle + d s.holds.latchHi + d s.holds.latchLo + r) .sending
          { drive with bitClock := true }) ∧
      (∀ r < d s.holds.bclkLo,
        shows (slot i + d s.holds.txSettle + d s.holds.latchHi + d s.holds.latchLo +
          d s.holds.bclkHi + r) .sending drive)) ∧
    (∀ r < d s.holds.txEnd,
      shows (slot w.toNat + r) .sending { Lines.low with dataOut := last }) ∧
    shows (slot w.toNat + d s.holds.txEnd) .idle { Lines.low with dataOut := last }

/-- 40_link.md R110, with R90 and R92: from a state that keeps the link's invariant, every step of RECEIVE w
with its line values, the samples taken so far, the newest at its own edge, and the hold register it lasts
for, counted from the acceptance edge, and after the last hold its completion (the record of samples is the
model's own, log entry 6). -/
def Obligations.ReceiveStepsLastTheirHolds : Prop :=
  ∀ (s : State) (w : Width), s.LinkOk → s.busy = false → w ≤ s.param.wmax → s.issues (.receive w) →
    let d := fun h : BitVec 16 => max 1 (h.toNat * s.param.unitCycles.toNat)
    let slot := fun i : Nat => d s.holds.rxStart + i * (d s.holds.rxSample + d s.holds.ackHi +
      d s.holds.ackLo)
    let taken := fun k : Nat =>
      ((List.range k).map fun i => (⟨s.log.edge + slot i, s.syncAt (slot i)⟩ : Sample)).reverse
    let shows := fun (n : Nat) (m : Mode) (l : Lines) (k : Nat) => s.noReset (n + 1) →
      ∃ t, Host.Core.run Sys2Proof.core (n + 1) s = .next t ∧ t.ctl.mode = m ∧ t.lines = l ∧
        t.log.samples = taken k ++ s.log.samples
    let idle := { Lines.low with dataOut := s.lines.dataOut }
    let read := { idle with readEnable := true }
    (∀ r < d s.holds.rxStart, shows r .receiving read 0) ∧
    (∀ i < w.toNat,
      (∀ r < d s.holds.rxSample, shows (slot i + r) .receiving read (i + 1)) ∧
      (∀ r < d s.holds.ackHi,
        shows (slot i + d s.holds.rxSample + r) .receiving { read with readAck := true } (i + 1)) ∧
      (∀ r < d s.holds.ackLo,
        shows (slot i + d s.holds.rxSample + d s.holds.ackHi + r) .receiving read (i + 1))) ∧
    (∀ r < d s.holds.rxEnd, shows (slot w.toNat + r) .receiving idle w.toNat) ∧
    shows (slot w.toNat + d s.holds.rxEnd) .idle idle w.toNat

/-- 40_link.md R111: at its completion RECEIVE w leaves in RXDATA, at bit i < w, the i-th sample, which is
DataIn_sync at the edge of sample i, and 0 at every other bit; until then RXDATA keeps its value (R115). -/
def Obligations.ReceiveAssemblesItsSamples : Prop :=
  ∀ (s : State) (w : Width), s.busy = false → w ≤ s.param.wmax → s.issues (.receive w) →
    s.noReset (s.receiveCycles w.toNat + 1) →
    (∀ n ≤ s.receiveCycles w.toNat,
      ∃ t, Host.Core.run Sys2Proof.core n s = .next t ∧ t.rxData = s.rxData) ∧
    ∃ t, Host.Core.run Sys2Proof.core (s.receiveCycles w.toNat + 1) s = .next t ∧
      ∀ i, t.rxData.getLsbD i = (decide (i < w.toNat) && s.syncAt (s.sampleTime i))

/-- 40_link.md R117: where the samples of a RECEIVE w are the low w bits of TXSHIFT, which holds the word
that the last SEND latched (SendIsAcceptedInIdle), RXDATA at its completion is TXSHIFT modulo 2^w. -/
def Obligations.EchoedWordComesBack : Prop :=
  ∀ (s : State) (w : Width), s.busy = false → w ≤ s.param.wmax → s.issues (.receive w) →
    s.noReset (s.receiveCycles w.toNat + 1) →
    (∀ i < w.toNat, s.syncAt (s.sampleTime i) = s.ctl.txShift.getLsbD i) →
    ∃ t, Host.Core.run Sys2Proof.core (s.receiveCycles w.toNat + 1) s = .next t ∧
      t.rxData.toNat = s.ctl.txShift.toNat % 2 ^ w.toNat

/-- 10_state.md R30: after n edges without block reset the synchroniser shows the pin as it was as many
edges earlier as it has stages (70_reset_and_hazards.md R188). -/
def Obligations.SynchroniserDelaysThePin : Prop :=
  ∀ (s t : State) (n : Nat), s.noReset n → Host.Core.run Sys2Proof.core n s = .next t →
    t.dataInSync = s.syncAt n

/-- 40_link.md R105, in every state that keeps the link's invariant: Latch and BitClock are never 1
together, each is 1 only while BusClock is, and then DataOut holds the bit of the slot; and DataOut changes
only at an edge before and after which both are 0. -/
def Obligations.SendLineProperties : Prop :=
  ∀ s : State, s.LinkOk →
    ¬(s.lines.latch = true ∧ s.lines.bitClock = true) ∧
    (s.lines.latch = true ∨ s.lines.bitClock = true →
      s.lines.busClock = true ∧ s.ctl.mode = .sending ∧
      s.lines.dataOut = s.ctl.txShift.getLsbD s.ctl.bitIdx.toNat) ∧
    ∀ t, step s = .next t → s.hostCycle.rst = false → t.lines.dataOut ≠ s.lines.dataOut →
      s.lines.latch = false ∧ s.lines.bitClock = false ∧ t.lines.latch = false ∧
      t.lines.bitClock = false ∧ t.lines.busClock = true

/-- 40_link.md R112: a sample is taken only by RECEIVE, while ReadEnable is 1 and ReadAck is 0
(10_state.md R29). -/
def Obligations.SamplesAreTakenBetweenAcks : Prop :=
  ∀ s t : State, s.LinkOk → step s = .next t → t.log.samples ≠ s.log.samples →
    s.ctl.mode = .receiving ∧ t.ctl.mode = .receiving ∧ s.lines.readEnable = true ∧
    s.lines.readAck = false ∧ t.lines.readAck = false ∧
    t.log.samples = ⟨s.log.edge, s.dataInSync⟩ :: s.log.samples

/-! ## Invariants -/

/-- The reset state keeps all three invariants (10_state.md R28, R31, R41). -/
def Obligations.ResetMeetsTheInvariants : Prop :=
  State.reset.LinkOk ∧ State.reset.ana.Ok State.reset.param.wmax.toNat ∧ State.reset.ErrorsOk ∧
  State.reset.param.Legal

/-- The link's invariant is kept by every step: among it, that in IDLE every line but DataOut is 0
(10_state.md R28), and that CUR_W is at most WMAX and RXDATA below 2^WMAX (R37). -/
def Obligations.EveryStepKeepsTheLinkInvariant : Prop :=
  ∀ s t : State, s.LinkOk → step s = .next t → t.LinkOk

/-- 10_state.md R41: the analyzer's invariants hold after every step: PERBIT[p] is the sum of column p of
HIST, row 0 is 0, nothing stands at or beyond column AW or beyond row AW. -/
def Obligations.EveryStepKeepsTheTables : Prop :=
  ∀ s t : State, s.ana.Ok s.param.wmax.toNat → step s = .next t → t.ana.Ok t.param.wmax.toNat

/-- CAUSE is 0 where CMDERR is 0, and every error that STATUS shows stands in the fault record, the
model's own field (10_state.md R31, 60_exceptions.md R161; log entries 5 and 6). -/
def Obligations.EveryStepKeepsTheErrors : Prop :=
  ∀ s t : State, s.ErrorsOk → step s = .next t → t.ErrorsOk

/-! ## What no step changes, or only some steps -/

/-- 10_state.md R35: PARAM is fixed. -/
def Obligations.ParamIsFixed : Prop := ∀ s t : State, step s = .next t → t.param = s.param

/-- The fault record, the model's own field (log entry 5), only grows (60_exceptions.md R161), by at most
one fault an edge (R158). -/
def Obligations.FaultRecordOnlyGrows : Prop :=
  ∀ s t : State, step s = .next t →
    t.log.faults = s.log.faults ∨ ∃ f, t.log.faults = ⟨s.log.edge, f⟩ :: s.log.faults

/-- 40_link.md R115: RXDATA changes only at block reset or at the completion edge of a RECEIVE, to the
whole assembled word. -/
def Obligations.RxDataChangesOnlyAtCompletion : Prop :=
  ∀ s t : State, step s = .next t → t.rxData ≠ s.rxData →
    s.hostCycle.rst = true ∨
    (s.ctl.mode = .receiving ∧ t.ctl.mode = .idle ∧ t.rxData = s.ctl.rxShift)

/-- The analyzer's state changes only at block reset or by a RECORD or CLEAR that the host issues in IDLE
(10_state.md R43, 20_memory.md R60, 41_analyzer.md R133). -/
def Obligations.TablesChangeOnlyByRecordOrClear : Prop :=
  ∀ s t : State, step s = .next t → t.ana ≠ s.ana →
    s.hostCycle.rst = true ∨
    (s.busy = false ∧ ∃ w, s.issues (.record w) ∨ s.issues (.clear w))

/-- 10_state.md R41: a counter never decreases but by CLEAR and block reset. -/
def Obligations.CountersAreMonotone : Prop :=
  ∀ s t : State, step s = .next t → s.hostCycle.rst = false → (∀ w, ¬s.issues (.clear w)) →
    ∀ k p, (s.ana.perbitAt p).toNat ≤ (t.ana.perbitAt p).toNat ∧
      (s.ana.histAt k p).toNat ≤ (t.ana.histAt k p).toNat

/-- The record of line changes is exact: an edge adds a line's new value where, and only where, the line
changed (70_reset_and_hazards.md R193; the record is the model's own, log entry 6). -/
def Obligations.LineTraceIsExact : Prop :=
  ∀ s t : State, step s = .next t →
    ∃ new, t.log.lineTrace = new ++ s.log.lineTrace ∧
      ∀ c : LineChange, c ∈ new ↔
        c.edge = s.log.edge ∧ c.value = t.lines.get c.line ∧ t.lines.get c.line ≠ s.lines.get c.line

/-! ## Two runs -/

/-- The remote device cannot start, stop or change a command (60_exceptions.md R157, 40_link.md R94): two
states that differ only in the coming pin values and in what was sampled keep the same controller
sequence, lines, STATUS and tables through any number of steps. -/
def Obligations.DataInCannotSteer : Prop :=
  ∀ (s u : State) (pins sync : List Bool) (rx rxData : Word) (b : Bool) (samples : List Sample)
    (reads : List ReadRecord) (n : Nat),
    u = { s with
      pins := pins, sync := sync, rxData := rxData
      ctl := { s.ctl with rxShift := rx, rxBit := b }
      log := { s.log with samples := samples, reads := reads } } →
    ∃ t v, Host.Core.run Sys2Proof.core n s = .next t ∧ Host.Core.run Sys2Proof.core n u = .next v ∧
      v.ctl.mode = t.ctl.mode ∧ v.ctl.evt = t.ctl.evt ∧ v.ctl.holdCnt = t.ctl.holdCnt ∧
      v.lines = t.lines ∧ v.status = t.status ∧ v.ana = t.ana ∧ v.log.faults = t.log.faults ∧
      v.log.lineTrace = t.log.lineTrace

/-- No host write can stop or alter a running command (40_link.md R93, 20_memory.md R66): two hosts that do
anything but reset the block leave the same controller, lines, operands and RXDATA until it completes. -/
def Obligations.HostCannotAlterARunningCommand : Prop :=
  ∀ (s : State) (host : List HostCycle) (n : Nat), n ≤ s.remaining →
    s.noReset n → State.noReset { s with host := host } n →
    ∃ t u, Host.Core.run Sys2Proof.core n s = .next t ∧
      Host.Core.run Sys2Proof.core n { s with host := host } = .next u ∧
      u.ctl = t.ctl ∧ u.lines = t.lines ∧ u.rxData = t.rxData ∧ u.holds = t.holds ∧
      u.txData = t.txData ∧ u.sampleRecv = t.sampleRecv ∧ u.sampleExp = t.sampleExp ∧
      u.ana = t.ana ∧ u.log.lineTrace = t.log.lineTrace ∧ u.log.samples = t.log.samples

/-- Bits of TXDATA at and above w are never sent (40_link.md R103): two states that differ only there show
the same lines at every edge of a SEND w. -/
def Obligations.SendIgnoresUpperBits : Prop :=
  ∀ (s : State) (w : Width) (x : Word) (n : Nat), s.busy = false → w ≤ s.param.wmax →
    s.issues (.send w) → n ≤ s.sendCycles w.toNat + 1 →
    s.noReset n → (∀ i < w.toNat, x.getLsbD i = s.txData.getLsbD i) →
    ∃ t u, Host.Core.run Sys2Proof.core n s = .next t ∧
      Host.Core.run Sys2Proof.core n { s with txData := x } = .next u ∧
      u.lines = t.lines ∧ u.log.lineTrace = t.log.lineTrace ∧ u.ctl.mode = t.ctl.mode
end

