-- ==== Sys2Proof/Laws/State.lean ====
section
/-! SUPPORT. One lemma per field of State per update, true by rfl, so that no proof unfolds a record
update. -/

namespace Sys2Proof.Machine

section
variable (s : State)

/-! `State.recordFault` -/

@[simp] theorem State.recordFault_ctl (f : Fault) : (s.recordFault f).ctl = s.ctl := rfl
@[simp] theorem State.recordFault_lines (f : Fault) : (s.recordFault f).lines = s.lines := rfl
@[simp] theorem State.recordFault_sync (f : Fault) : (s.recordFault f).sync = s.sync := rfl
@[simp] theorem State.recordFault_status (f : Fault) : (s.recordFault f).status = s.status := rfl
@[simp] theorem State.recordFault_holds (f : Fault) : (s.recordFault f).holds = s.holds := rfl
@[simp] theorem State.recordFault_txData (f : Fault) : (s.recordFault f).txData = s.txData := rfl
@[simp] theorem State.recordFault_rxData (f : Fault) : (s.recordFault f).rxData = s.rxData := rfl
@[simp] theorem State.recordFault_sampleRecv (f : Fault) : (s.recordFault f).sampleRecv = s.sampleRecv := rfl
@[simp] theorem State.recordFault_sampleExp (f : Fault) : (s.recordFault f).sampleExp = s.sampleExp := rfl
@[simp] theorem State.recordFault_ana (f : Fault) : (s.recordFault f).ana = s.ana := rfl
@[simp] theorem State.recordFault_host (f : Fault) : (s.recordFault f).host = s.host := rfl
@[simp] theorem State.recordFault_pins (f : Fault) : (s.recordFault f).pins = s.pins := rfl
@[simp] theorem State.recordFault_log (f : Fault) : (s.recordFault f).log = { s.log with faults := ⟨s.log.edge, f⟩ :: s.log.faults } := rfl
@[simp] theorem State.recordFault_param (f : Fault) : (s.recordFault f).param = s.param := rfl

/-! `State.raiseCmdErr` -/

@[simp] theorem State.raiseCmdErr_ctl (c : Cause) : (s.raiseCmdErr c).ctl = s.ctl := rfl
@[simp] theorem State.raiseCmdErr_lines (c : Cause) : (s.raiseCmdErr c).lines = s.lines := rfl
@[simp] theorem State.raiseCmdErr_sync (c : Cause) : (s.raiseCmdErr c).sync = s.sync := rfl
@[simp] theorem State.raiseCmdErr_status (c : Cause) : (s.raiseCmdErr c).status = s.status.refusing c := rfl
@[simp] theorem State.raiseCmdErr_holds (c : Cause) : (s.raiseCmdErr c).holds = s.holds := rfl
@[simp] theorem State.raiseCmdErr_txData (c : Cause) : (s.raiseCmdErr c).txData = s.txData := rfl
@[simp] theorem State.raiseCmdErr_rxData (c : Cause) : (s.raiseCmdErr c).rxData = s.rxData := rfl
@[simp] theorem State.raiseCmdErr_sampleRecv (c : Cause) : (s.raiseCmdErr c).sampleRecv = s.sampleRecv := rfl
@[simp] theorem State.raiseCmdErr_sampleExp (c : Cause) : (s.raiseCmdErr c).sampleExp = s.sampleExp := rfl
@[simp] theorem State.raiseCmdErr_ana (c : Cause) : (s.raiseCmdErr c).ana = s.ana := rfl
@[simp] theorem State.raiseCmdErr_host (c : Cause) : (s.raiseCmdErr c).host = s.host := rfl
@[simp] theorem State.raiseCmdErr_pins (c : Cause) : (s.raiseCmdErr c).pins = s.pins := rfl
@[simp] theorem State.raiseCmdErr_log (c : Cause) : (s.raiseCmdErr c).log = { s.log with faults := ⟨s.log.edge, .cmdErr c⟩ :: s.log.faults } := rfl
@[simp] theorem State.raiseCmdErr_param (c : Cause) : (s.raiseCmdErr c).param = s.param := rfl

/-! `State.raiseOvf` -/

@[simp] theorem State.raiseOvf_ctl : (s.raiseOvf).ctl = s.ctl := rfl
@[simp] theorem State.raiseOvf_lines : (s.raiseOvf).lines = s.lines := rfl
@[simp] theorem State.raiseOvf_sync : (s.raiseOvf).sync = s.sync := rfl
@[simp] theorem State.raiseOvf_status : (s.raiseOvf).status = { s.status with ovf := true } := rfl
@[simp] theorem State.raiseOvf_holds : (s.raiseOvf).holds = s.holds := rfl
@[simp] theorem State.raiseOvf_txData : (s.raiseOvf).txData = s.txData := rfl
@[simp] theorem State.raiseOvf_rxData : (s.raiseOvf).rxData = s.rxData := rfl
@[simp] theorem State.raiseOvf_sampleRecv : (s.raiseOvf).sampleRecv = s.sampleRecv := rfl
@[simp] theorem State.raiseOvf_sampleExp : (s.raiseOvf).sampleExp = s.sampleExp := rfl
@[simp] theorem State.raiseOvf_ana : (s.raiseOvf).ana = s.ana := rfl
@[simp] theorem State.raiseOvf_host : (s.raiseOvf).host = s.host := rfl
@[simp] theorem State.raiseOvf_pins : (s.raiseOvf).pins = s.pins := rfl
@[simp] theorem State.raiseOvf_log : (s.raiseOvf).log = { s.log with faults := ⟨s.log.edge, .ovf⟩ :: s.log.faults } := rfl
@[simp] theorem State.raiseOvf_param : (s.raiseOvf).param = s.param := rfl

/-! `State.writeStatus` -/

@[simp] theorem State.writeStatus_ctl (v : Word) : (s.writeStatus v).ctl = s.ctl := rfl
@[simp] theorem State.writeStatus_lines (v : Word) : (s.writeStatus v).lines = s.lines := rfl
@[simp] theorem State.writeStatus_sync (v : Word) : (s.writeStatus v).sync = s.sync := rfl
@[simp] theorem State.writeStatus_status (v : Word) : (s.writeStatus v).status = s.status.written v := rfl
@[simp] theorem State.writeStatus_holds (v : Word) : (s.writeStatus v).holds = s.holds := rfl
@[simp] theorem State.writeStatus_txData (v : Word) : (s.writeStatus v).txData = s.txData := rfl
@[simp] theorem State.writeStatus_rxData (v : Word) : (s.writeStatus v).rxData = s.rxData := rfl
@[simp] theorem State.writeStatus_sampleRecv (v : Word) : (s.writeStatus v).sampleRecv = s.sampleRecv := rfl
@[simp] theorem State.writeStatus_sampleExp (v : Word) : (s.writeStatus v).sampleExp = s.sampleExp := rfl
@[simp] theorem State.writeStatus_ana (v : Word) : (s.writeStatus v).ana = s.ana := rfl
@[simp] theorem State.writeStatus_host (v : Word) : (s.writeStatus v).host = s.host := rfl
@[simp] theorem State.writeStatus_pins (v : Word) : (s.writeStatus v).pins = s.pins := rfl
@[simp] theorem State.writeStatus_log (v : Word) : (s.writeStatus v).log = s.log := rfl
@[simp] theorem State.writeStatus_param (v : Word) : (s.writeStatus v).param = s.param := rfl

/-! `State.blockReset` -/

@[simp] theorem State.blockReset_ctl : (s.blockReset).ctl = Ctl.reset := rfl
@[simp] theorem State.blockReset_lines : (s.blockReset).lines = Lines.low := rfl
@[simp] theorem State.blockReset_sync : (s.blockReset).sync = syncReset s.param.syncStages := rfl
@[simp] theorem State.blockReset_status : (s.blockReset).status = Status.reset := rfl
@[simp] theorem State.blockReset_holds : (s.blockReset).holds = Holds.reset := rfl
@[simp] theorem State.blockReset_txData : (s.blockReset).txData = 0 := rfl
@[simp] theorem State.blockReset_rxData : (s.blockReset).rxData = 0 := rfl
@[simp] theorem State.blockReset_sampleRecv : (s.blockReset).sampleRecv = 0 := rfl
@[simp] theorem State.blockReset_sampleExp : (s.blockReset).sampleExp = 0 := rfl
@[simp] theorem State.blockReset_ana : (s.blockReset).ana = Analyzer.fresh s.param.wmax s.param.wmax := rfl
@[simp] theorem State.blockReset_host : (s.blockReset).host = s.host := rfl
@[simp] theorem State.blockReset_pins : (s.blockReset).pins = s.pins := rfl
@[simp] theorem State.blockReset_log : (s.blockReset).log = s.log := rfl
@[simp] theorem State.blockReset_param : (s.blockReset).param = s.param := rfl

/-! `State.shiftSync` -/

@[simp] theorem State.shiftSync_ctl : (s.shiftSync).ctl = s.ctl := rfl
@[simp] theorem State.shiftSync_lines : (s.shiftSync).lines = s.lines := rfl
@[simp] theorem State.shiftSync_sync : (s.shiftSync).sync = (s.pin :: s.sync).take s.sync.length := rfl
@[simp] theorem State.shiftSync_status : (s.shiftSync).status = s.status := rfl
@[simp] theorem State.shiftSync_holds : (s.shiftSync).holds = s.holds := rfl
@[simp] theorem State.shiftSync_txData : (s.shiftSync).txData = s.txData := rfl
@[simp] theorem State.shiftSync_rxData : (s.shiftSync).rxData = s.rxData := rfl
@[simp] theorem State.shiftSync_sampleRecv : (s.shiftSync).sampleRecv = s.sampleRecv := rfl
@[simp] theorem State.shiftSync_sampleExp : (s.shiftSync).sampleExp = s.sampleExp := rfl
@[simp] theorem State.shiftSync_ana : (s.shiftSync).ana = s.ana := rfl
@[simp] theorem State.shiftSync_host : (s.shiftSync).host = s.host := rfl
@[simp] theorem State.shiftSync_pins : (s.shiftSync).pins = s.pins := rfl
@[simp] theorem State.shiftSync_log : (s.shiftSync).log = s.log := rfl
@[simp] theorem State.shiftSync_param : (s.shiftSync).param = s.param := rfl

/-! `State.startHold` -/

@[simp] theorem State.startHold_ctl (w : Wait) : (s.startHold w).ctl = { s.ctl with evt := s.ctl.evt + 1, holdCnt := BitVec.ofNat 32 (s.waitLen w) } := rfl
@[simp] theorem State.startHold_lines (w : Wait) : (s.startHold w).lines = s.lines := rfl
@[simp] theorem State.startHold_sync (w : Wait) : (s.startHold w).sync = s.sync := rfl
@[simp] theorem State.startHold_status (w : Wait) : (s.startHold w).status = s.status := rfl
@[simp] theorem State.startHold_holds (w : Wait) : (s.startHold w).holds = s.holds := rfl
@[simp] theorem State.startHold_txData (w : Wait) : (s.startHold w).txData = s.txData := rfl
@[simp] theorem State.startHold_rxData (w : Wait) : (s.startHold w).rxData = s.rxData := rfl
@[simp] theorem State.startHold_sampleRecv (w : Wait) : (s.startHold w).sampleRecv = s.sampleRecv := rfl
@[simp] theorem State.startHold_sampleExp (w : Wait) : (s.startHold w).sampleExp = s.sampleExp := rfl
@[simp] theorem State.startHold_ana (w : Wait) : (s.startHold w).ana = s.ana := rfl
@[simp] theorem State.startHold_host (w : Wait) : (s.startHold w).host = s.host := rfl
@[simp] theorem State.startHold_pins (w : Wait) : (s.startHold w).pins = s.pins := rfl
@[simp] theorem State.startHold_log (w : Wait) : (s.startHold w).log = s.log := rfl
@[simp] theorem State.startHold_param (w : Wait) : (s.startHold w).param = s.param := rfl

/-! `State.complete` -/

@[simp] theorem State.complete_ctl : (s.complete).ctl = { s.ctl with mode := .idle, evt := 0, holdCnt := 0 } := rfl
@[simp] theorem State.complete_lines : (s.complete).lines = s.lines := rfl
@[simp] theorem State.complete_sync : (s.complete).sync = s.sync := rfl
@[simp] theorem State.complete_status : (s.complete).status = s.status := rfl
@[simp] theorem State.complete_holds : (s.complete).holds = s.holds := rfl
@[simp] theorem State.complete_txData : (s.complete).txData = s.txData := rfl
@[simp] theorem State.complete_rxData : (s.complete).rxData = if s.ctl.mode = .receiving then s.ctl.rxShift else s.rxData := rfl
@[simp] theorem State.complete_sampleRecv : (s.complete).sampleRecv = s.sampleRecv := rfl
@[simp] theorem State.complete_sampleExp : (s.complete).sampleExp = s.sampleExp := rfl
@[simp] theorem State.complete_ana : (s.complete).ana = s.ana := rfl
@[simp] theorem State.complete_host : (s.complete).host = s.host := rfl
@[simp] theorem State.complete_pins : (s.complete).pins = s.pins := rfl
@[simp] theorem State.complete_log : (s.complete).log = s.log := rfl
@[simp] theorem State.complete_param : (s.complete).param = s.param := rfl

/-! `State.startSession` -/

@[simp] theorem State.startSession_ctl (w : Width) : (s.startSession w).ctl = s.ctl := rfl
@[simp] theorem State.startSession_lines (w : Width) : (s.startSession w).lines = s.lines := rfl
@[simp] theorem State.startSession_sync (w : Width) : (s.startSession w).sync = s.sync := rfl
@[simp] theorem State.startSession_status (w : Width) : (s.startSession w).status = s.status := rfl
@[simp] theorem State.startSession_holds (w : Width) : (s.startSession w).holds = s.holds := rfl
@[simp] theorem State.startSession_txData (w : Width) : (s.startSession w).txData = s.txData := rfl
@[simp] theorem State.startSession_rxData (w : Width) : (s.startSession w).rxData = s.rxData := rfl
@[simp] theorem State.startSession_sampleRecv (w : Width) : (s.startSession w).sampleRecv = s.sampleRecv := rfl
@[simp] theorem State.startSession_sampleExp (w : Width) : (s.startSession w).sampleExp = s.sampleExp := rfl
@[simp] theorem State.startSession_ana (w : Width) : (s.startSession w).ana = Analyzer.fresh s.param.wmax w := rfl
@[simp] theorem State.startSession_host (w : Width) : (s.startSession w).host = s.host := rfl
@[simp] theorem State.startSession_pins (w : Width) : (s.startSession w).pins = s.pins := rfl
@[simp] theorem State.startSession_log (w : Width) : (s.startSession w).log = s.log := rfl
@[simp] theorem State.startSession_param (w : Width) : (s.startSession w).param = s.param := rfl

/-! `State.recordRead` -/

@[simp] theorem State.recordRead_ctl (a : Addr) : (s.recordRead a).ctl = s.ctl := rfl
@[simp] theorem State.recordRead_lines (a : Addr) : (s.recordRead a).lines = s.lines := rfl
@[simp] theorem State.recordRead_sync (a : Addr) : (s.recordRead a).sync = s.sync := rfl
@[simp] theorem State.recordRead_status (a : Addr) : (s.recordRead a).status = s.status := rfl
@[simp] theorem State.recordRead_holds (a : Addr) : (s.recordRead a).holds = s.holds := rfl
@[simp] theorem State.recordRead_txData (a : Addr) : (s.recordRead a).txData = s.txData := rfl
@[simp] theorem State.recordRead_rxData (a : Addr) : (s.recordRead a).rxData = s.rxData := rfl
@[simp] theorem State.recordRead_sampleRecv (a : Addr) : (s.recordRead a).sampleRecv = s.sampleRecv := rfl
@[simp] theorem State.recordRead_sampleExp (a : Addr) : (s.recordRead a).sampleExp = s.sampleExp := rfl
@[simp] theorem State.recordRead_ana (a : Addr) : (s.recordRead a).ana = s.ana := rfl
@[simp] theorem State.recordRead_host (a : Addr) : (s.recordRead a).host = s.host := rfl
@[simp] theorem State.recordRead_pins (a : Addr) : (s.recordRead a).pins = s.pins := rfl
@[simp] theorem State.recordRead_log (a : Addr) : (s.recordRead a).log = { s.log with reads := ⟨s.log.edge, a, s.read a⟩ :: s.log.reads } := rfl
@[simp] theorem State.recordRead_param (a : Addr) : (s.recordRead a).param = s.param := rfl

/-! `State.recordLines` -/

@[simp] theorem State.recordLines_ctl (old : Lines) : (s.recordLines old).ctl = s.ctl := rfl
@[simp] theorem State.recordLines_lines (old : Lines) : (s.recordLines old).lines = s.lines := rfl
@[simp] theorem State.recordLines_sync (old : Lines) : (s.recordLines old).sync = s.sync := rfl
@[simp] theorem State.recordLines_status (old : Lines) : (s.recordLines old).status = s.status := rfl
@[simp] theorem State.recordLines_holds (old : Lines) : (s.recordLines old).holds = s.holds := rfl
@[simp] theorem State.recordLines_txData (old : Lines) : (s.recordLines old).txData = s.txData := rfl
@[simp] theorem State.recordLines_rxData (old : Lines) : (s.recordLines old).rxData = s.rxData := rfl
@[simp] theorem State.recordLines_sampleRecv (old : Lines) : (s.recordLines old).sampleRecv = s.sampleRecv := rfl
@[simp] theorem State.recordLines_sampleExp (old : Lines) : (s.recordLines old).sampleExp = s.sampleExp := rfl
@[simp] theorem State.recordLines_ana (old : Lines) : (s.recordLines old).ana = s.ana := rfl
@[simp] theorem State.recordLines_host (old : Lines) : (s.recordLines old).host = s.host := rfl
@[simp] theorem State.recordLines_pins (old : Lines) : (s.recordLines old).pins = s.pins := rfl
@[simp] theorem State.recordLines_log (old : Lines) : (s.recordLines old).log = { s.log with lineTrace := (old.changes s.lines).map (fun c => ⟨s.log.edge, c.1, c.2⟩) ++ s.log.lineTrace } := rfl
@[simp] theorem State.recordLines_param (old : Lines) : (s.recordLines old).param = s.param := rfl

/-! `State.endCycle` -/

@[simp] theorem State.endCycle_ctl : (s.endCycle).ctl = s.ctl := rfl
@[simp] theorem State.endCycle_lines : (s.endCycle).lines = s.lines := rfl
@[simp] theorem State.endCycle_sync : (s.endCycle).sync = s.sync := rfl
@[simp] theorem State.endCycle_status : (s.endCycle).status = s.status := rfl
@[simp] theorem State.endCycle_holds : (s.endCycle).holds = s.holds := rfl
@[simp] theorem State.endCycle_txData : (s.endCycle).txData = s.txData := rfl
@[simp] theorem State.endCycle_rxData : (s.endCycle).rxData = s.rxData := rfl
@[simp] theorem State.endCycle_sampleRecv : (s.endCycle).sampleRecv = s.sampleRecv := rfl
@[simp] theorem State.endCycle_sampleExp : (s.endCycle).sampleExp = s.sampleExp := rfl
@[simp] theorem State.endCycle_ana : (s.endCycle).ana = s.ana := rfl
@[simp] theorem State.endCycle_host : (s.endCycle).host = s.host.tail := rfl
@[simp] theorem State.endCycle_pins : (s.endCycle).pins = s.pins.tail := rfl
@[simp] theorem State.endCycle_log : (s.endCycle).log = { s.log with edge := s.log.edge + 1 } := rfl
@[simp] theorem State.endCycle_param : (s.endCycle).param = s.param := rfl

/-! `State.withCommand` -/

@[simp] theorem State.withCommand_ctl (v : Word) : (s.withCommand v).ctl = s.ctl := rfl
@[simp] theorem State.withCommand_lines (v : Word) : (s.withCommand v).lines = s.lines := rfl
@[simp] theorem State.withCommand_sync (v : Word) : (s.withCommand v).sync = s.sync := rfl
@[simp] theorem State.withCommand_status (v : Word) : (s.withCommand v).status = s.status := rfl
@[simp] theorem State.withCommand_holds (v : Word) : (s.withCommand v).holds = s.holds := rfl
@[simp] theorem State.withCommand_txData (v : Word) : (s.withCommand v).txData = s.txData := rfl
@[simp] theorem State.withCommand_rxData (v : Word) : (s.withCommand v).rxData = s.rxData := rfl
@[simp] theorem State.withCommand_sampleRecv (v : Word) : (s.withCommand v).sampleRecv = s.sampleRecv := rfl
@[simp] theorem State.withCommand_sampleExp (v : Word) : (s.withCommand v).sampleExp = s.sampleExp := rfl
@[simp] theorem State.withCommand_ana (v : Word) : (s.withCommand v).ana = s.ana := rfl
@[simp] theorem State.withCommand_host (v : Word) : (s.withCommand v).host = { rst := false, bus := .write 0 v } :: s.host.tail := rfl
@[simp] theorem State.withCommand_pins (v : Word) : (s.withCommand v).pins = s.pins := rfl
@[simp] theorem State.withCommand_log (v : Word) : (s.withCommand v).log = s.log := rfl
@[simp] theorem State.withCommand_param (v : Word) : (s.withCommand v).param = s.param := rfl

/-! `State.perform` of `drive` -/

@[simp] theorem State.perform_drive_ctl (l : Line) (b : Bool) : (s.perform (.drive l b)).ctl = s.ctl := rfl
@[simp] theorem State.perform_drive_lines (l : Line) (b : Bool) : (s.perform (.drive l b)).lines = s.lines.set l b := rfl
@[simp] theorem State.perform_drive_sync (l : Line) (b : Bool) : (s.perform (.drive l b)).sync = s.sync := rfl
@[simp] theorem State.perform_drive_status (l : Line) (b : Bool) : (s.perform (.drive l b)).status = s.status := rfl
@[simp] theorem State.perform_drive_holds (l : Line) (b : Bool) : (s.perform (.drive l b)).holds = s.holds := rfl
@[simp] theorem State.perform_drive_txData (l : Line) (b : Bool) : (s.perform (.drive l b)).txData = s.txData := rfl
@[simp] theorem State.perform_drive_rxData (l : Line) (b : Bool) : (s.perform (.drive l b)).rxData = s.rxData := rfl
@[simp] theorem State.perform_drive_sampleRecv (l : Line) (b : Bool) : (s.perform (.drive l b)).sampleRecv = s.sampleRecv := rfl
@[simp] theorem State.perform_drive_sampleExp (l : Line) (b : Bool) : (s.perform (.drive l b)).sampleExp = s.sampleExp := rfl
@[simp] theorem State.perform_drive_ana (l : Line) (b : Bool) : (s.perform (.drive l b)).ana = s.ana := rfl
@[simp] theorem State.perform_drive_host (l : Line) (b : Bool) : (s.perform (.drive l b)).host = s.host := rfl
@[simp] theorem State.perform_drive_pins (l : Line) (b : Bool) : (s.perform (.drive l b)).pins = s.pins := rfl
@[simp] theorem State.perform_drive_log (l : Line) (b : Bool) : (s.perform (.drive l b)).log = s.log := rfl
@[simp] theorem State.perform_drive_param (l : Line) (b : Bool) : (s.perform (.drive l b)).param = s.param := rfl

/-! `State.perform` of `txBit` -/

@[simp] theorem State.perform_txBit_ctl (i : Nat) : (s.perform (.txBit i)).ctl = { s.ctl with bitIdx := BitVec.ofNat 5 i } := rfl
@[simp] theorem State.perform_txBit_lines (i : Nat) : (s.perform (.txBit i)).lines = s.lines.set .dataOut (s.txBitAt i) := rfl
@[simp] theorem State.perform_txBit_sync (i : Nat) : (s.perform (.txBit i)).sync = s.sync := rfl
@[simp] theorem State.perform_txBit_status (i : Nat) : (s.perform (.txBit i)).status = s.status := rfl
@[simp] theorem State.perform_txBit_holds (i : Nat) : (s.perform (.txBit i)).holds = s.holds := rfl
@[simp] theorem State.perform_txBit_txData (i : Nat) : (s.perform (.txBit i)).txData = s.txData := rfl
@[simp] theorem State.perform_txBit_rxData (i : Nat) : (s.perform (.txBit i)).rxData = s.rxData := rfl
@[simp] theorem State.perform_txBit_sampleRecv (i : Nat) : (s.perform (.txBit i)).sampleRecv = s.sampleRecv := rfl
@[simp] theorem State.perform_txBit_sampleExp (i : Nat) : (s.perform (.txBit i)).sampleExp = s.sampleExp := rfl
@[simp] theorem State.perform_txBit_ana (i : Nat) : (s.perform (.txBit i)).ana = s.ana := rfl
@[simp] theorem State.perform_txBit_host (i : Nat) : (s.perform (.txBit i)).host = s.host := rfl
@[simp] theorem State.perform_txBit_pins (i : Nat) : (s.perform (.txBit i)).pins = s.pins := rfl
@[simp] theorem State.perform_txBit_log (i : Nat) : (s.perform (.txBit i)).log = s.log := rfl
@[simp] theorem State.perform_txBit_param (i : Nat) : (s.perform (.txBit i)).param = s.param := rfl

/-! `State.perform` of `sampleBit` -/

@[simp] theorem State.perform_sampleBit_ctl (i : Nat) : (s.perform (.sampleBit i)).ctl = { s.ctl with bitIdx := BitVec.ofNat 5 i, rxBit := s.dataInSync } := rfl
@[simp] theorem State.perform_sampleBit_lines (i : Nat) : (s.perform (.sampleBit i)).lines = s.lines := rfl
@[simp] theorem State.perform_sampleBit_sync (i : Nat) : (s.perform (.sampleBit i)).sync = s.sync := rfl
@[simp] theorem State.perform_sampleBit_status (i : Nat) : (s.perform (.sampleBit i)).status = s.status := rfl
@[simp] theorem State.perform_sampleBit_holds (i : Nat) : (s.perform (.sampleBit i)).holds = s.holds := rfl
@[simp] theorem State.perform_sampleBit_txData (i : Nat) : (s.perform (.sampleBit i)).txData = s.txData := rfl
@[simp] theorem State.perform_sampleBit_rxData (i : Nat) : (s.perform (.sampleBit i)).rxData = s.rxData := rfl
@[simp] theorem State.perform_sampleBit_sampleRecv (i : Nat) : (s.perform (.sampleBit i)).sampleRecv = s.sampleRecv := rfl
@[simp] theorem State.perform_sampleBit_sampleExp (i : Nat) : (s.perform (.sampleBit i)).sampleExp = s.sampleExp := rfl
@[simp] theorem State.perform_sampleBit_ana (i : Nat) : (s.perform (.sampleBit i)).ana = s.ana := rfl
@[simp] theorem State.perform_sampleBit_host (i : Nat) : (s.perform (.sampleBit i)).host = s.host := rfl
@[simp] theorem State.perform_sampleBit_pins (i : Nat) : (s.perform (.sampleBit i)).pins = s.pins := rfl
@[simp] theorem State.perform_sampleBit_log (i : Nat) : (s.perform (.sampleBit i)).log = { s.log with samples := ⟨s.log.edge, s.dataInSync⟩ :: s.log.samples } := rfl
@[simp] theorem State.perform_sampleBit_param (i : Nat) : (s.perform (.sampleBit i)).param = s.param := rfl

/-! `State.perform` of `storeAndAck` -/

@[simp] theorem State.perform_storeAndAck_ctl (i : Nat) : (s.perform (.storeAndAck i)).ctl = { s.ctl with rxShift := if s.ctl.rxBit then s.ctl.rxShift ||| BitVec.twoPow 32 i else s.ctl.rxShift &&& ~~~ BitVec.twoPow 32 i } := rfl
@[simp] theorem State.perform_storeAndAck_lines (i : Nat) : (s.perform (.storeAndAck i)).lines = s.lines.set .readAck true := rfl
@[simp] theorem State.perform_storeAndAck_sync (i : Nat) : (s.perform (.storeAndAck i)).sync = s.sync := rfl
@[simp] theorem State.perform_storeAndAck_status (i : Nat) : (s.perform (.storeAndAck i)).status = s.status := rfl
@[simp] theorem State.perform_storeAndAck_holds (i : Nat) : (s.perform (.storeAndAck i)).holds = s.holds := rfl
@[simp] theorem State.perform_storeAndAck_txData (i : Nat) : (s.perform (.storeAndAck i)).txData = s.txData := rfl
@[simp] theorem State.perform_storeAndAck_rxData (i : Nat) : (s.perform (.storeAndAck i)).rxData = s.rxData := rfl
@[simp] theorem State.perform_storeAndAck_sampleRecv (i : Nat) : (s.perform (.storeAndAck i)).sampleRecv = s.sampleRecv := rfl
@[simp] theorem State.perform_storeAndAck_sampleExp (i : Nat) : (s.perform (.storeAndAck i)).sampleExp = s.sampleExp := rfl
@[simp] theorem State.perform_storeAndAck_ana (i : Nat) : (s.perform (.storeAndAck i)).ana = s.ana := rfl
@[simp] theorem State.perform_storeAndAck_host (i : Nat) : (s.perform (.storeAndAck i)).host = s.host := rfl
@[simp] theorem State.perform_storeAndAck_pins (i : Nat) : (s.perform (.storeAndAck i)).pins = s.pins := rfl
@[simp] theorem State.perform_storeAndAck_log (i : Nat) : (s.perform (.storeAndAck i)).log = s.log := rfl
@[simp] theorem State.perform_storeAndAck_param (i : Nat) : (s.perform (.storeAndAck i)).param = s.param := rfl

end

end Sys2Proof.Machine
end

