-- ==== Sys2Proof/Laws/Ops.lean ====
section
/-! SUPPORT. For each shared operation of Machine/Ops.lean, Flags.lean and Operands.lean, what it does,
said once. -/

namespace Sys2Proof.Machine

/-! BUSY -/

theorem State.busy_iff {s : State} : s.busy = true ↔ s.ctl.mode ≠ .idle := by simp [State.busy]

theorem State.not_busy_iff {s : State} : s.busy = false ↔ s.ctl.mode = .idle := by
  simp [State.busy]

/-! Bits -/

theorem lowBits_toNat (v : Word) (n : Nat) : (lowBits v n).toNat = v.toNat % 2 ^ n := by
  rw [lowBits, BitVec.toNat_ofNat]
  exact Nat.mod_eq_of_lt (lt_of_le_of_lt (Nat.mod_le _ _) v.isLt)

@[simp] theorem lowBits_getLsbD (v : Word) (n i : Nat) :
    (lowBits v n).getLsbD i = (decide (i < n) && v.getLsbD i) := by
  rw [BitVec.getLsbD, lowBits_toNat, Nat.testBit_mod_two_pow, BitVec.getLsbD]

@[simp] theorem mismatchMask_getLsbD (s : State) (w : Width) (i : Nat) :
    (s.mismatchMask w).getLsbD i =
      (decide (i < w.toNat) && (s.sampleRecv.getLsbD i ^^ s.sampleExp.getLsbD i)) := by
  simp only [State.mismatchMask, State.receivedWord, State.expectedWord, BitVec.getLsbD_xor,
    lowBits_getLsbD]
  cases decide (i < w.toNat) <;> simp

/-- A word whose bits at and above `w` are 0 has at most `w` bits set. -/
theorem popcount_le {v : Word} {w : Nat} (h : ∀ i, w ≤ i → v.getLsbD i = false) : popcount v ≤ w := by
  have hsub : (List.range 32).filter (fun i => v.getLsbD i) ⊆ List.range w := by
    intro i hi
    simp only [List.mem_filter, List.mem_range] at hi ⊢
    by_contra hc
    simp [h i (by omega)] at hi
  have hnd := (List.nodup_range (n := 32)).filter (fun i => v.getLsbD i)
  have := (hnd.subperm hsub).length_le
  simpa [popcount, List.countP_eq_length_filter] using this

theorem wrongCount_le (s : State) (w : Width) : s.wrongCount w ≤ w.toNat :=
  popcount_le fun i hi => by simp [Nat.not_lt.mpr hi]

/-- A word with no wrong bit is zero at every position. -/
theorem getLsbD_of_popcount_zero {v : Word} (h : popcount v = 0) (i : Nat) : v.getLsbD i = false := by
  by_cases hi : i < 32
  · have := (List.countP_eq_zero.mp h) i (List.mem_range.mpr hi)
    simpa using this
  · exact BitVec.getLsbD_of_ge v i (by omega)

/-! Lines and hold registers -/

@[simp] theorem Lines.get_set (l : Lines) (m n : Line) (b : Bool) :
    (l.set m b).get n = if n = m then b else l.get n := by
  cases m <;> cases n <;> rfl

@[simp] theorem Holds.get_set (h : Holds) (m n : HoldReg) (v : BitVec 16) :
    (h.set m v).get n = if n = m then v else h.get n := by
  cases m <;> cases n <;> rfl

theorem Lines.ext_get {l m : Lines} (h : ∀ n, l.get n = m.get n) : l = m := by
  have a := h .busClock; have b := h .bitClock; have c := h .latch; have d := h .dataOut
  have e := h .reset; have f := h .readEnable; have g := h .readAck
  cases l; cases m
  simp only [Lines.get] at a b c d e f g
  subst a b c d e f g
  rfl

theorem State.holdLen_pos (s : State) (h : HoldReg) : 1 ≤ s.holdLen h := Nat.le_max_left _ _

theorem State.holdLen_lt (s : State) (h : HoldReg) : s.holdLen h < 2 ^ 32 := by
  have a := (s.holds.get h).isLt
  have b := s.param.unitCycles.isLt
  have : (s.holds.get h).toNat * s.param.unitCycles.toNat ≤ (2 ^ 16 - 1) * (2 ^ 16 - 1) :=
    Nat.mul_le_mul (by omega) (by omega)
  exact max_lt (by norm_num) (by omega)

/-! The error tables -/

@[simp] theorem bumpFrom_length (m : Word) (p : Nat) (r : List (BitVec 32)) :
    (bumpFrom m p r).length = r.length := by
  induction r generalizing p with
  | nil => rfl
  | cons c cs ih => simp [bumpFrom, ih]

theorem bumpFrom_getD (m : Word) (p q : Nat) (r : List (BitVec 32)) :
    (bumpFrom m p r).getD q 0 =
      if m.getLsbD (p + q) = true ∧ q < r.length then r.getD q 0 + 1 else r.getD q 0 := by
  induction r generalizing p q with
  | nil => simp [bumpFrom]
  | cons c cs ih =>
    cases q with
    | zero => simp [bumpFrom]
    | succ q =>
      have := ih (p + 1) q
      simpa [bumpFrom, Nat.add_assoc, Nat.add_comm 1 q] using this

theorem Analyzer.count_perbitAt (a : Analyzer) (m : Word) (k p : Nat) :
    (a.count m k).perbitAt p =
      if m.getLsbD p = true ∧ p < a.perbit.length then a.perbitAt p + 1 else a.perbitAt p := by
  simpa [Analyzer.count, Analyzer.perbitAt] using bumpFrom_getD m 0 p a.perbit

theorem Analyzer.count_histAt (a : Analyzer) (m : Word) (k i p : Nat) :
    (a.count m k).histAt i p =
      if i = k ∧ k < a.hist.length ∧ m.getLsbD p = true ∧ p < (a.hist.getD k []).length
      then a.histAt i p + 1 else a.histAt i p := by
  unfold Analyzer.count Analyzer.histAt
  by_cases hik : i = k
  · subst hik
    by_cases hl : i < a.hist.length
    · have := bumpFrom_getD m 0 p (a.hist.getD i [])
      simp only [Nat.zero_add] at this
      simp only [hl, true_and]
      rw [← this]
      simp [List.getD_eq_getElem?_getD, hl]
    · simp [hl, List.getD_eq_getElem?_getD]
  · have : k ≠ i := fun h => hik h.symm
    simp [hik, List.getD_eq_getElem?_getD, List.getElem?_set_ne this]

@[simp] theorem Analyzer.count_aw (a : Analyzer) (m : Word) (k : Nat) : (a.count m k).aw = a.aw := rfl
@[simp] theorem Analyzer.count_lastMask (a : Analyzer) (m : Word) (k : Nat) :
    (a.count m k).lastMask = m := rfl
@[simp] theorem Analyzer.count_lastCount (a : Analyzer) (m : Word) (k : Nat) :
    (a.count m k).lastCount = BitVec.ofNat 6 k := rfl

@[simp] theorem Analyzer.fresh_perbitAt (wmax aw : Width) (p : Nat) :
    (Analyzer.fresh wmax aw).perbitAt p = 0 := by
  simp only [Analyzer.perbitAt, Analyzer.fresh, List.getD_eq_getElem?_getD, List.getElem?_replicate]
  split <;> rfl

@[simp] theorem Analyzer.fresh_histAt (wmax aw : Width) (k p : Nat) :
    (Analyzer.fresh wmax aw).histAt k p = 0 := by
  unfold Analyzer.histAt Analyzer.fresh
  by_cases hk : k < wmax.toNat + 1
  · simp only [List.getD_eq_getElem?_getD, List.getElem?_replicate, hk, if_true, Option.getD_some]
    split <;> rfl
  · simp [List.getD_eq_getElem?_getD, hk]

/-- A RECORD overflows exactly where some counter it would increment is at its largest value. -/
theorem Analyzer.wouldOverflow_iff (a : Analyzer) (m : Word) (k w : Nat) :
    a.wouldOverflow m k w = true ↔
      ∃ p < w, m.getLsbD p = true ∧
        (a.perbitAt p = BitVec.allOnes 32 ∨ a.histAt k p = BitVec.allOnes 32) := by
  simp [Analyzer.wouldOverflow, List.any_eq_true]

/-! The acceptance check -/

/-- Everything the acceptance check can do: it never stops, and it refuses or runs. -/
theorem State.accept_cases (ok : Bool) (s : State) (run : State → State) :
    (s.busy = true ∧ s.accept ok run = .next (s.raiseCmdErr .busyCmd)) ∨
    (s.busy = false ∧ ok = true ∧ s.accept ok run = .next (run s)) ∨
    (s.busy = false ∧ ok = false ∧ s.accept ok run = .next (s.raiseCmdErr .badWidth)) := by
  unfold State.accept
  cases hb : s.busy <;> cases ok <;> simp

@[simp] theorem State.accept_idle {s : State} (h : s.busy = false) (run : State → State) :
    s.accept true run = .next (run s) := by simp [State.accept, h]

theorem State.recordSample_cases (w : Width) (s : State) :
    (s.ana.wouldOverflow (s.mismatchMask w) (s.wrongCount w) w.toNat = true ∧
      s.recordSample w = s.raiseOvf) ∨
    (s.ana.wouldOverflow (s.mismatchMask w) (s.wrongCount w) w.toNat = false ∧
      s.recordSample w = { s with ana := s.ana.count (s.mismatchMask w) (s.wrongCount w) }) := by
  unfold State.recordSample
  cases h : s.ana.wouldOverflow (s.mismatchMask w) (s.wrongCount w) w.toNat <;> simp

end Sys2Proof.Machine
end

