-- ==== Sys2Proof/Laws/Controller.lean ====
section
/-! SUPPORT. The controller: its event lists by index and length, what one edge leaves alone, and the
inversion of `State.advance`. -/

namespace Sys2Proof.Machine

/-! Event lists -/

theorem flatMap_sendSlot_length (w : Nat) : ((List.range w).flatMap sendSlot).length = 5 * w := by
  induction w with
  | zero => rfl
  | succ n ih => rw [List.range_succ, List.flatMap_append, List.length_append, ih]; simp [sendSlot]; ring

theorem flatMap_receiveSlot_length (w : Nat) :
    ((List.range w).flatMap receiveSlot).length = 3 * w := by
  induction w with
  | zero => rfl
  | succ n ih =>
    rw [List.range_succ, List.flatMap_append, List.length_append, ih]; simp [receiveSlot]; ring

@[simp] theorem resetEvents_length : resetEvents.length = 2 := rfl

@[simp] theorem sendEvents_length (w : Nat) : (sendEvents w).length = 5 * w + 2 := by
  simp only [sendEvents, List.length_cons, List.length_append, flatMap_sendSlot_length, List.length_nil]

@[simp] theorem receiveEvents_length (w : Nat) : (receiveEvents w).length = 3 * w + 2 := by
  simp only [receiveEvents, List.length_cons, List.length_append, flatMap_receiveSlot_length,
    List.length_nil]

theorem flatMap_sendSlot_getElem? (w i r : Nat) (hi : i < w) (hr : r < 5) :
    ((List.range w).flatMap sendSlot)[5 * i + r]? = (sendSlot i)[r]? := by
  induction w with
  | zero => omega
  | succ n ih =>
    have hl := flatMap_sendSlot_length n
    rw [List.range_succ, List.flatMap_append]
    rcases Nat.lt_succ_iff_lt_or_eq.mp hi with h | h
    · rw [List.getElem?_append_left (by omega), ih h]
    · subst h
      rw [List.getElem?_append_right (by omega), hl]
      simp

theorem flatMap_receiveSlot_getElem? (w i r : Nat) (hi : i < w) (hr : r < 3) :
    ((List.range w).flatMap receiveSlot)[3 * i + r]? = (receiveSlot i)[r]? := by
  induction w with
  | zero => omega
  | succ n ih =>
    have hl := flatMap_receiveSlot_length n
    rw [List.range_succ, List.flatMap_append]
    rcases Nat.lt_succ_iff_lt_or_eq.mp hi with h | h
    · rw [List.getElem?_append_left (by omega), ih h]
    · subst h
      rw [List.getElem?_append_right (by omega), hl]
      simp

@[simp] theorem sendEvents_zero (w : Nat) :
    (sendEvents w)[0]? = some ⟨.drive .busClock true, .hold .txStart⟩ := rfl

/-- Event 5i + r + 1 of SEND is step r of bit slot i. -/
theorem sendEvents_slot (w i r : Nat) (hi : i < w) (hr : r < 5) :
    (sendEvents w)[5 * i + r + 1]? = (sendSlot i)[r]? := by
  have hl := flatMap_sendSlot_length w
  rw [sendEvents, List.getElem?_cons_succ, List.getElem?_append_left (by omega),
    flatMap_sendSlot_getElem? w i r hi hr]

theorem sendEvents_last (w : Nat) :
    (sendEvents w)[5 * w + 1]? = some ⟨.drive .busClock false, .hold .txEnd⟩ := by
  have hl := flatMap_sendSlot_length w
  rw [sendEvents, List.getElem?_cons_succ, List.getElem?_append_right (by omega), hl]
  simp

@[simp] theorem receiveEvents_zero (w : Nat) :
    (receiveEvents w)[0]? = some ⟨.drive .readEnable true, .hold .rxStart⟩ := rfl

/-- Event 3i + r + 1 of RECEIVE is step r of bit slot i. -/
theorem receiveEvents_slot (w i r : Nat) (hi : i < w) (hr : r < 3) :
    (receiveEvents w)[3 * i + r + 1]? = (receiveSlot i)[r]? := by
  have hl := flatMap_receiveSlot_length w
  rw [receiveEvents, List.getElem?_cons_succ, List.getElem?_append_left (by omega),
    flatMap_receiveSlot_getElem? w i r hi hr]

theorem receiveEvents_last (w : Nat) :
    (receiveEvents w)[3 * w + 1]? = some ⟨.drive .readEnable false, .hold .rxEnd⟩ := by
  have hl := flatMap_receiveSlot_length w
  rw [receiveEvents, List.getElem?_cons_succ, List.getElem?_append_right (by omega), hl]
  simp

/-! Waits -/

theorem State.waitLen_pos (s : State) (w : Wait) : 1 ≤ s.waitLen w := by
  cases w with
  | hold h => exact s.holdLen_pos h
  | one => exact Nat.le_refl 1

theorem State.waitLen_lt (s : State) (w : Wait) : s.waitLen w < 2 ^ 32 := by
  cases w with
  | hold h => exact s.holdLen_lt h
  | one => norm_num [State.waitLen]

/-- The waits depend on the hold registers and on UNIT_CYCLES alone. -/
theorem State.waitLen_congr {s t : State} (hh : t.holds = s.holds) (hp : t.param = s.param) (w : Wait) :
    t.waitLen w = s.waitLen w := by
  cases w <;> simp [State.waitLen, State.holdLen, hh, hp]

theorem State.program_congr {s t : State} (hm : t.ctl.mode = s.ctl.mode) (hw : t.ctl.curW = s.ctl.curW) :
    t.program = s.program := by
  simp [State.program, hm, hw]

@[simp] theorem State.startHold_holdCnt_toNat (w : Wait) (s : State) :
    (s.startHold w).ctl.holdCnt.toNat = s.waitLen w := by
  simp only [State.startHold_ctl, BitVec.toNat_ofNat]
  exact Nat.mod_eq_of_lt (s.waitLen_lt w)

/-! What an edge of a running command leaves alone -/

/-- The parts of the state that no event and no completion of a link command writes. -/
structure State.SameOutsideLink (s t : State) : Prop where
  sync : t.sync = s.sync
  status : t.status = s.status
  holds : t.holds = s.holds
  txData : t.txData = s.txData
  sampleRecv : t.sampleRecv = s.sampleRecv
  sampleExp : t.sampleExp = s.sampleExp
  ana : t.ana = s.ana
  host : t.host = s.host
  pins : t.pins = s.pins
  param : t.param = s.param
  edge : t.log.edge = s.log.edge
  lineTrace : t.log.lineTrace = s.log.lineTrace
  faults : t.log.faults = s.log.faults
  reads : t.log.reads = s.log.reads

theorem State.perform_same (a : Action) (s : State) : s.SameOutsideLink (s.perform a) := by
  cases a <;> constructor <;> rfl

theorem State.fire_same (s : State) : s.SameOutsideLink s.fire := by
  unfold State.fire
  cases s.program[s.ctl.evt]? with
  | none => constructor <;> rfl
  | some e =>
    have h := s.perform_same e.act
    exact { h with }

theorem State.advance_same (s : State) : s.SameOutsideLink s.advance := by
  unfold State.advance
  split
  · exact s.fire_same
  · constructor <;> rfl

@[simp] theorem State.perform_mode (a : Action) (s : State) : (s.perform a).ctl.mode = s.ctl.mode := by
  cases a <;> rfl
@[simp] theorem State.perform_evt (a : Action) (s : State) : (s.perform a).ctl.evt = s.ctl.evt := by
  cases a <;> rfl
@[simp] theorem State.perform_curW (a : Action) (s : State) : (s.perform a).ctl.curW = s.ctl.curW := by
  cases a <;> rfl
@[simp] theorem State.perform_txShift (a : Action) (s : State) :
    (s.perform a).ctl.txShift = s.ctl.txShift := by
  cases a <;> rfl
@[simp] theorem State.perform_rxData (a : Action) (s : State) : (s.perform a).rxData = s.rxData := by
  cases a <;> rfl
@[simp] theorem State.perform_waitLen (a : Action) (w : Wait) (s : State) :
    (s.perform a).waitLen w = s.waitLen w :=
  State.waitLen_congr (s.perform_same a).holds (s.perform_same a).param w

/-- Everything an edge can do to a running command: it counts the hold down, or the next event happens
and its hold starts, or the command completes (40_link.md R92). -/
theorem State.advance_cases (s : State) :
    (1 < s.ctl.holdCnt.toNat ∧
      s.advance = { s with ctl := { s.ctl with holdCnt := s.ctl.holdCnt - 1 } }) ∨
    (s.ctl.holdCnt.toNat ≤ 1 ∧ ∃ e, s.program[s.ctl.evt]? = some e ∧
      s.advance = (s.perform e.act).startHold e.wait) ∨
    (s.ctl.holdCnt.toNat ≤ 1 ∧ s.program[s.ctl.evt]? = none ∧ s.advance = s.complete) := by
  unfold State.advance
  by_cases h : s.ctl.holdCnt.toNat ≤ 1
  · rw [if_pos h]
    unfold State.fire
    cases hp : s.program[s.ctl.evt]? with
    | none => exact .inr (.inr ⟨h, rfl, rfl⟩)
    | some e => exact .inr (.inl ⟨h, e, rfl, rfl⟩)
  · rw [if_neg h]
    exact .inl ⟨by omega, rfl⟩

end Sys2Proof.Machine
end

