-- ==== Sys2Proof/Laws/Decode.lean ====
section
/-! SUPPORT. What `decode` and `encode` say of a word's three fields (30_encoding.md R70, R77). -/

namespace Sys2Proof

/-- A word is its three fields. -/
theorem word_eq_of_fields {u v : Word} (op : opField u = opField v) (width : widthField u = widthField v)
    (rsv : rsvField u = rsvField v) : u = v := by
  apply BitVec.eq_of_getLsbD_eq
  intro i hi
  by_cases a : i < 4
  · have := congrArg (fun x => BitVec.getLsbD x i) op
    simpa [opField, a] using this
  by_cases b : i < 9
  · have := congrArg (fun x => BitVec.getLsbD x (i - 4)) width
    have e : 4 + (i - 4) = i := by omega
    simpa [widthField, show i - 4 < 5 by omega, e] using this
  · have := congrArg (fun x => BitVec.getLsbD x (i - 9)) rsv
    have e : 9 + (i - 9) = i := by omega
    simpa [rsvField, show i - 9 < 23 by omega, e] using this

/-- The fields of a command's word. -/
theorem encode_fields (i : Instr) :
    opField (encode i) = i.opcode ∧ widthField (encode i) = i.width ∧ rsvField (encode i) = 0 := by
  cases i with
  | reset => decide
  | send w => revert w; decide
  | receive w => revert w; decide
  | record w => revert w; decide
  | clear w => revert w; decide

/-- Everything `decode` can answer, by the word's fields. -/
theorem decode_cases (v : Word) :
    ((opField v).toNat ∉ [1, 2, 3, 4, 5] ∧ decode v = .error .badOp) ∨
    ((opField v).toNat ∈ [1, 2, 3, 4, 5] ∧
      (rsvField v ≠ 0 ∨ ((opField v).toNat = 1 ∧ widthField v ≠ 0)) ∧ decode v = .error .rsvBits) ∨
    (rsvField v = 0 ∧ ∃ i : Instr, i.opcode = opField v ∧ i.width = widthField v ∧ decode v = .ok i) := by
  have hop : ∀ n : BitVec 4, (opField v).toNat = n.toNat → n = opField v := fun n h =>
    (BitVec.eq_of_toNat_eq h).symm
  by_cases hr : rsvField v = 0
  · unfold decode decodeWidth
    split
    · rename_i ho
      by_cases hw : widthField v = 0
      · exact .inr (.inr ⟨hr, .reset, hop 1 ho, hw.symm, if_pos ⟨hr, hw⟩⟩)
      · exact .inr (.inl ⟨by simp [ho], .inr ⟨ho, hw⟩, if_neg fun h => hw h.2⟩)
    · rename_i ho; exact .inr (.inr ⟨hr, .send (widthField v), hop 2 ho, rfl, if_pos hr⟩)
    · rename_i ho; exact .inr (.inr ⟨hr, .receive (widthField v), hop 3 ho, rfl, if_pos hr⟩)
    · rename_i ho; exact .inr (.inr ⟨hr, .record (widthField v), hop 4 ho, rfl, if_pos hr⟩)
    · rename_i ho; exact .inr (.inr ⟨hr, .clear (widthField v), hop 5 ho, rfl, if_pos hr⟩)
    · rename_i h1 h2 h3 h4 h5
      exact .inl ⟨by simpa using ⟨h1, h2, h3, h4, h5⟩, rfl⟩
  · unfold decode decodeWidth
    split
    case h_6 =>
      rename_i h1 h2 h3 h4 h5
      exact .inl ⟨by simpa using ⟨h1, h2, h3, h4, h5⟩, rfl⟩
    all_goals
      rename_i ho
      first
        | exact .inr (.inl ⟨by simp [ho], .inl hr, if_neg hr⟩)
        | exact .inr (.inl ⟨by simp [ho], .inl hr, if_neg fun h => hr h.1⟩)

/-- The fields of a word that decodes to a command. -/
theorem decode_fields {v : Word} {i : Instr} (h : decode v = .ok i) :
    opField v = i.opcode ∧ widthField v = i.width ∧ rsvField v = 0 := by
  rcases decode_cases v with ⟨_, he⟩ | ⟨_, _, he⟩ | ⟨hr, j, ho, hw, hj⟩
  · rw [he] at h; cases h
  · rw [he] at h; cases h
  · rw [hj] at h
    cases h
    exact ⟨ho.symm, hw.symm, hr⟩

end Sys2Proof
end

