-- ==== Sys2Proof/Laws/Step.lean ====
section
/-! SUPPORT. What a command, a host access and a clock edge can do: none of them stops, and each is one of
a few cases. -/

namespace Sys2Proof.Machine

/-! Acceptance of the link commands: event E0 at the acceptance edge. -/

theorem State.start_eq {s : State} {c : Ctl} {e : Event}
    (h : (events c.mode c.curW.toNat)[0]? = some e) :
    s.start c = ({ s with ctl := { c with evt := 0 } }.perform e.act).startHold e.wait := by
  unfold State.start State.fire State.program
  simp only [h]

theorem State.start_reset (s : State) :
    s.start { s.ctl with mode := .resetting } =
      { s with
        ctl := { s.ctl with
          mode := .resetting, evt := 1, holdCnt := BitVec.ofNat 32 (s.holdLen .rstHi) }
        lines := s.lines.set .reset true } := rfl

theorem State.start_send (s : State) (w : Width) :
    s.start { s.ctl with mode := .sending, curW := w, txShift := s.txData } =
      { s with
        ctl := { s.ctl with
          mode := .sending, evt := 1, holdCnt := BitVec.ofNat 32 (s.holdLen .txStart)
          curW := w, txShift := s.txData }
        lines := s.lines.set .busClock true } := rfl

theorem State.start_receive (s : State) (w : Width) :
    s.start { s.ctl with mode := .receiving, curW := w, rxShift := 0 } =
      { s with
        ctl := { s.ctl with
          mode := .receiving, evt := 1, holdCnt := BitVec.ofNat 32 (s.holdLen .rxStart)
          curW := w, rxShift := 0 }
        lines := s.lines.set .readEnable true } := rfl

/-! Totality: the state after a command, a host access and a clock edge. -/

/-- The outcome of a command is always a next state. -/
theorem exec_next (i : Instr) (s : State) : ∃ t, exec i s = .next t := by
  have key : ∀ ok run, ∃ t, s.accept ok run = .next t := fun ok run => by
    rcases s.accept_cases ok run with ⟨_, h⟩ | ⟨_, _, h⟩ | ⟨_, _, h⟩ <;> exact ⟨_, h⟩
  cases i <;> exact key _ _

/-- The outcome of a host write to CMD is always a next state. -/
theorem State.issueCommand_next (v : Word) (s : State) : ∃ t, s.issueCommand v = .next t := by
  unfold State.issueCommand
  split
  · exact ⟨_, rfl⟩
  · split
    · exact exec_next _ s
    · exact ⟨_, rfl⟩

/-- The outcome of a host write is always a next state. -/
theorem State.writeReg_next (r : Reg) (v : Word) (s : State) : ∃ t, s.writeReg r v = .next t := by
  cases r with
  | cmd => exact s.issueCommand_next v
  | _ => exact ⟨_, rfl⟩

/-- The outcome of a host access is always a next state. -/
theorem State.busAccess_next (op : BusOp) (s : State) : ∃ t, s.busAccess op = .next t := by
  cases op with
  | none => exact ⟨_, rfl⟩
  | read a => exact ⟨_, rfl⟩
  | write a v => exact s.writeReg_next (regAt a) v

/-- One clock edge: block reset, or the host's access followed by what the controller does. -/
theorem step_cases (s : State) :
    (s.hostCycle.rst = true ∧ step s = .next (s.resetEdge s.hostCycle.bus)) ∨
    (s.hostCycle.rst = false ∧ ∃ t, s.busAccess s.hostCycle.bus = .next t ∧
      step s = .next (s.finishEdge t)) := by
  unfold step State.clockEdge
  cases hr : s.hostCycle.rst with
  | true => exact .inl ⟨rfl, rfl⟩
  | false =>
    obtain ⟨t, ht⟩ := s.busAccess_next s.hostCycle.bus
    exact .inr ⟨rfl, t, ht, by simp [State.runEdge, ht]⟩

theorem next_inj {s t : State} (h : (.next s : Host.Outcome State Fault Refusal) = .next t) : t = s := by
  cases h; rfl

/-- Every host access while a command runs leaves all but STATUS and the record alone. -/
theorem State.busAccess_busy {op : BusOp} {s t : State} (hb : s.busy = true)
    (h : s.busAccess op = .next t) :
    ∃ st faults reads, t = { s with
      status := st, log := { s.log with faults := faults, reads := reads } } := by
  have refused : ∀ c : Cause, ∃ st faults reads, s.raiseCmdErr c = { s with
      status := st, log := { s.log with faults := faults, reads := reads } } :=
    fun c => ⟨_, _, s.log.reads, rfl⟩
  have same : ∃ st faults reads, s = { s with
      status := st, log := { s.log with faults := faults, reads := reads } } :=
    ⟨s.status, s.log.faults, s.log.reads, rfl⟩
  have guarded : ∀ u : State, s.guardedWrite u = s.raiseCmdErr .busyWrite := fun u => by
    simp [State.guardedWrite, hb]
  cases op with
  | none => exact next_inj h ▸ same
  | read a => exact ⟨s.status, s.log.faults, _, next_inj h⟩
  | write a v =>
    change s.writeReg (regAt a) v = .next t at h
    cases hr : regAt a <;> rw [hr] at h
    case cmd =>
      have hi : s.issueCommand v = .next (s.raiseCmdErr .busyCmd) := by simp [State.issueCommand, hb]
      exact next_inj (hi.symm.trans h) ▸ refused _
    case status => exact ⟨_, s.log.faults, s.log.reads, next_inj h⟩
    case txData => exact (next_inj h).trans (guarded _) ▸ refused _
    case sampleRecv => exact (next_inj h).trans (guarded _) ▸ refused _
    case sampleExp => exact (next_inj h).trans (guarded _) ▸ refused _
    case hold => exact (next_inj h).trans (guarded _) ▸ refused _
    all_goals exact next_inj h ▸ same

/-- What a host access can do in IDLE. -/
inductive State.IdleAccess (s : State) : State → Prop where
  | same : s.IdleAccess s
  | read (a : Addr) : s.IdleAccess (s.recordRead a)
  | refused (c : Cause) : s.IdleAccess (s.raiseCmdErr c)
  | status (v : Word) : s.IdleAccess (s.writeStatus v)
  | txData (v : Word) : s.IdleAccess { s with txData := v }
  | sampleRecv (v : Word) : s.IdleAccess { s with sampleRecv := v }
  | sampleExp (v : Word) : s.IdleAccess { s with sampleExp := v }
  | hold (r : HoldReg) (v : BitVec 16) : s.IdleAccess { s with holds := s.holds.set r v }
  | reset : s.IdleAccess (s.start { s.ctl with mode := .resetting })
  | send (w : Width) (h : w ≤ s.param.wmax) :
      s.IdleAccess (s.start { s.ctl with mode := .sending, curW := w, txShift := s.txData })
  | receive (w : Width) (h : w ≤ s.param.wmax) :
      s.IdleAccess (s.start { s.ctl with mode := .receiving, curW := w, rxShift := 0 })
  | record (w : Width) (h : w ≤ s.ana.aw) : s.IdleAccess (s.recordSample w)
  | clear (w : Width) (h : w ≤ s.param.wmax) : s.IdleAccess (s.startSession w)

/-- A command in IDLE: it is refused for its width, or it has its effect. -/
theorem exec_idle {i : Instr} {s t : State} (hb : s.busy = false) (h : exec i s = .next t) :
    s.IdleAccess t := by
  have key : ∀ (p : Prop) [Decidable p] (run : State → State), s.accept (decide p) run = .next t →
      (p → s.IdleAccess (run s)) → s.IdleAccess t := fun p _ run ha hrun => by
    rcases s.accept_cases (decide p) run with ⟨hb', _⟩ | ⟨_, hok, hn⟩ | ⟨_, _, hn⟩
    · simp [hb] at hb'
    · exact next_inj (hn.symm.trans ha) ▸ hrun (of_decide_eq_true hok)
    · exact next_inj (hn.symm.trans ha) ▸ .refused _
  cases i with
  | reset =>
    have : exec .reset s = .next (s.start { s.ctl with mode := .resetting }) := State.accept_idle hb _
    exact next_inj (this.symm.trans h) ▸ .reset
  | send w => exact key _ _ h (.send w)
  | receive w => exact key _ _ h (.receive w)
  | record w => exact key _ _ h (.record w)
  | clear w => exact key _ _ h (.clear w)

/-- What a host access can do in IDLE: nothing, a read, a refusal, a STATUS write, a register write, or
one of the five commands. -/
theorem State.busAccess_idle {op : BusOp} {s t : State} (hb : s.busy = false)
    (h : s.busAccess op = .next t) : s.IdleAccess t := by
  have guarded : ∀ u : State, s.guardedWrite u = u := fun u => by simp [State.guardedWrite, hb]
  cases op with
  | none => exact next_inj h ▸ .same
  | read a => exact next_inj h ▸ .read a
  | write a v =>
    change s.writeReg (regAt a) v = .next t at h
    cases hr : regAt a <;> rw [hr] at h
    case cmd =>
      change s.issueCommand v = .next t at h
      unfold State.issueCommand at h
      rw [if_neg (by simp [hb])] at h
      cases hd : decode v with
      | error e => rw [hd] at h; exact next_inj h ▸ .refused _
      | ok i => rw [hd] at h; exact exec_idle hb h
    case status => exact next_inj h ▸ .status v
    case txData => exact (next_inj h).trans (guarded _) ▸ .txData v
    case sampleRecv => exact (next_inj h).trans (guarded _) ▸ .sampleRecv v
    case sampleExp => exact (next_inj h).trans (guarded _) ▸ .sampleExp v
    case hold r => exact (next_inj h).trans (guarded _) ▸ .hold r _
    all_goals exact next_inj h ▸ .same

/-! One edge of a running command -/

/-- STATUS and the record decide nothing of what an edge does to a running command. -/
theorem State.advance_withStatusLog (s : State) (st : Status) (f : List FaultRecord) (r : List ReadRecord) :
    State.advance { s with status := st, log := { s.log with faults := f, reads := r } } =
      { s.advance with status := st, log := { s.advance.log with faults := f, reads := r } } := by
  unfold State.advance
  split
  · unfold State.fire
    change (match s.program[s.ctl.evt]? with
      | some e => State.startHold e.wait (State.perform e.act _)
      | none => _) = _
    cases s.program[s.ctl.evt]? with
    | none => rfl
    | some e => cases e with | mk a w => cases a <;> rfl
  · rfl

/-- What a clock edge without block reset does while a command runs, whatever the host does. -/
structure State.BusyStep (s t : State) : Prop where
  ctl : t.ctl = s.advance.ctl
  lines : t.lines = s.advance.lines
  rxData : t.rxData = s.advance.rxData
  sync : t.sync = (s.pin :: s.sync).take s.sync.length
  holds : t.holds = s.holds
  txData : t.txData = s.txData
  sampleRecv : t.sampleRecv = s.sampleRecv
  sampleExp : t.sampleExp = s.sampleExp
  ana : t.ana = s.ana
  host : t.host = s.host.tail
  pins : t.pins = s.pins.tail
  param : t.param = s.param
  edge : t.log.edge = s.log.edge + 1
  samples : t.log.samples = s.advance.log.samples
  lineTrace : t.log.lineTrace =
    (s.lines.changes s.advance.lines).map (fun c => ⟨s.log.edge, c.1, c.2⟩) ++ s.log.lineTrace

theorem step_busy {s : State} (hb : s.busy = true) (hr : s.hostCycle.rst = false) :
    ∃ t, step s = .next t ∧ s.BusyStep t := by
  rcases step_cases s with ⟨h, _⟩ | ⟨_, t, ht, hs⟩
  · simp [hr] at h
  · refine ⟨_, hs, ?_⟩
    obtain ⟨st, f, r, rfl⟩ := State.busAccess_busy hb ht
    have same := s.advance_same
    have hp : s.advance.pin = s.pin := by simp only [State.pin, same.pins, same.edge]
    unfold State.finishEdge
    rw [if_pos hb, State.advance_withStatusLog]
    constructor
    case sync => change (s.advance.pin :: s.advance.sync).take s.advance.sync.length = _
                 rw [hp, same.sync]
    case host => exact congrArg List.tail same.host
    case pins => exact congrArg List.tail same.pins
    case edge => exact congrArg (· + 1) same.edge
    case lineTrace =>
      change (s.lines.changes s.advance.lines).map
        (fun c => (⟨s.advance.log.edge, c.1, c.2⟩ : LineChange)) ++ s.advance.log.lineTrace = _
      rw [same.edge, same.lineTrace]
    case holds => exact same.holds
    case txData => exact same.txData
    case sampleRecv => exact same.sampleRecv
    case sampleExp => exact same.sampleExp
    case ana => exact same.ana
    case param => exact same.param
    all_goals rfl

/-- An edge without block reset in IDLE: the host's access, and the inputs move on. -/
theorem step_idle {s : State} (hb : s.busy = false) (hr : s.hostCycle.rst = false) :
    ∃ t, s.busAccess s.hostCycle.bus = .next t ∧ s.IdleAccess t ∧
      step s = .next ((t.shiftSync.recordLines s.lines).endCycle) := by
  rcases step_cases s with ⟨h, _⟩ | ⟨_, t, ht, hs⟩
  · simp [hr] at h
  · refine ⟨t, ht, State.busAccess_idle hb ht, ?_⟩
    rw [hs, State.finishEdge, if_neg (by simp [hb])]

end Sys2Proof.Machine
end

