-- ==== Sys2Proof/Laws/Link.lean ====
section
/-! SUPPORT. Lemmas about the terms of Safety.lean: refused accesses, accepted link commands, where each
event stands in its list, what the link's invariant says of the lines, the tables of a fresh session, and
runs without block reset. -/

namespace Sys2Proof.Machine

/-- A refusal as the machine makes it is the one that claims speak of. -/
theorem State.raiseCmdErr_eq_refusedWith (c : Cause) (s : State) : s.raiseCmdErr c = s.refusedWith c := by
  simp only [State.raiseCmdErr, State.refusedWith, Status.refusing, State.recordFault]
  cases s.status.cmdErr <;> rfl

/-- Every accepted link command starts its controller sequence. -/
theorem exec_link_accepted (s : State) (hb : s.busy = false) :
   exec .reset s = .next (s.start { s.ctl with mode := .resetting }) ∧
   (∀ w, w ≤ s.param.wmax → exec (.send w) s = .next (s.start { s.ctl with mode := .sending, curW := w, txShift := s.txData })) ∧
   (∀ w, w ≤ s.param.wmax → exec (.receive w) s = .next (s.start { s.ctl with mode := .receiving, curW := w, rxShift := 0 })) := by
  refine ⟨State.accept_idle hb _, fun w hw => ?_, fun w hw => ?_⟩
  · show s.accept (decide (w ≤ s.param.wmax)) _ = _; rw [decide_eq_true hw]; exact State.accept_idle hb _
  · show s.accept (decide (w ≤ s.param.wmax)) _ = _; rw [decide_eq_true hw]; exact State.accept_idle hb _

/-- An entry of SEND's event list: the first, one of a slot, or the last. -/
theorem sendEvents_cases {w n : Nat} {e : Event} (h : (sendEvents w)[n]? = some e) :
    (n = 0 ∧ e = ⟨.drive .busClock true, .hold .txStart⟩) ∨
    (∃ i r, i < w ∧ r < 5 ∧ n = 5 * i + r + 1 ∧ (sendSlot i)[r]? = some e) ∨
    (n = 5 * w + 1 ∧ e = ⟨.drive .busClock false, .hold .txEnd⟩) := by
  have hn : n < 5 * w + 2 := by
    have := (List.getElem?_eq_some_iff.mp h).1; simpa using this
  rcases Nat.eq_zero_or_pos n with rfl | hp
  · left; refine ⟨rfl, ?_⟩; rw [sendEvents_zero] at h; exact (Option.some.inj h).symm
  · rcases Nat.lt_or_ge n (5 * w + 1) with h1 | h1
    · right; left
      have e1 : 5 * ((n-1)/5) + (n-1)%5 + 1 = n := by omega
      refine ⟨(n-1)/5, (n-1)%5, by omega, by omega, e1.symm, ?_⟩
      rw [← sendEvents_slot w _ _ (by omega) (by omega), e1, h]
    · right; right
      have : n = 5*w+1 := by omega
      subst this; refine ⟨rfl, ?_⟩; rw [sendEvents_last] at h; exact (Option.some.inj h).symm

/-- An entry of RECEIVE's event list: the first, one of a slot, or the last. -/
theorem receiveEvents_cases {w n : Nat} {e : Event} (h : (receiveEvents w)[n]? = some e) :
    (n = 0 ∧ e = ⟨.drive .readEnable true, .hold .rxStart⟩) ∨
    (∃ i r, i < w ∧ r < 3 ∧ n = 3 * i + r + 1 ∧ (receiveSlot i)[r]? = some e) ∨
    (n = 3 * w + 1 ∧ e = ⟨.drive .readEnable false, .hold .rxEnd⟩) := by
  have hn : n < 3 * w + 2 := by
    have := (List.getElem?_eq_some_iff.mp h).1; simpa using this
  rcases Nat.eq_zero_or_pos n with rfl | hp
  · left; refine ⟨rfl, ?_⟩; rw [receiveEvents_zero] at h; exact (Option.some.inj h).symm
  · rcases Nat.lt_or_ge n (3 * w + 1) with h1 | h1
    · right; left
      have e1 : 3 * ((n-1)/3) + (n-1)%3 + 1 = n := by omega
      refine ⟨(n-1)/3, (n-1)%3, by omega, by omega, e1.symm, ?_⟩
      rw [← receiveEvents_slot w _ _ (by omega) (by omega), e1, h]
    · right; right
      have : n = 3*w+1 := by omega
      subst this; refine ⟨rfl, ?_⟩; rw [receiveEvents_last] at h; exact (Option.some.inj h).symm

/-- The lines of a SEND, by the invariant. -/
theorem State.LinkOk.sending_lines {s : State} (h : s.LinkOk) (hm : s.ctl.mode = .sending) :
    s.lines.busClock = decide (s.ctl.evt - 1 ≤ 5 * s.ctl.curW.toNat) ∧
    s.lines.latch = decide (1 ≤ s.ctl.evt - 1 ∧ s.ctl.evt - 1 ≤ 5 * s.ctl.curW.toNat ∧ (s.ctl.evt - 1 - 1) % 5 = 1) ∧
    s.lines.bitClock = decide (1 ≤ s.ctl.evt - 1 ∧ s.ctl.evt - 1 ≤ 5 * s.ctl.curW.toNat ∧ (s.ctl.evt - 1 - 1) % 5 = 3) ∧
    (1 ≤ s.ctl.evt - 1 → 1 ≤ s.ctl.curW.toNat → s.lines.dataOut = s.ctl.txShift.getLsbD (min ((s.ctl.evt - 1 - 1) / 5) (s.ctl.curW.toNat - 1))) ∧
    s.lines.reset = false ∧ s.lines.readEnable = false ∧ s.lines.readAck = false := by
  have hl := h.lines_eq
  simp only [State.expectedLines, hm] at hl
  have g := fun n => congrArg (fun l : Lines => l.get n) hl
  refine ⟨g .busClock, g .latch, g .bitClock, ?_, g .reset, g .readEnable, g .readAck⟩
  intro h1 h2
  have := g .dataOut
  simpa [Lines.get, h1, h2] using this

/-- The lines of a RECEIVE, by the invariant. -/
theorem State.LinkOk.receiving_lines {s : State} (h : s.LinkOk) (hm : s.ctl.mode = .receiving) :
    s.lines.busClock = false ∧ s.lines.latch = false ∧ s.lines.bitClock = false ∧
    s.lines.reset = false ∧ s.lines.readEnable = decide (s.ctl.evt - 1 ≤ 3 * s.ctl.curW.toNat) ∧
    s.lines.readAck = decide (1 ≤ s.ctl.evt - 1 ∧ s.ctl.evt - 1 ≤ 3 * s.ctl.curW.toNat ∧ (s.ctl.evt - 1 - 1) % 3 = 1) := by
  have hl := h.lines_eq
  simp only [State.expectedLines, hm] at hl
  have g := fun n => congrArg (fun l : Lines => l.get n) hl
  exact ⟨g .busClock, g .latch, g .bitClock, g .reset, g .readEnable, g .readAck⟩

/-- The lines of a RESET, by the invariant. -/
theorem State.LinkOk.resetting_lines {s : State} (h : s.LinkOk) (hm : s.ctl.mode = .resetting) :
    s.lines.busClock = false ∧ s.lines.latch = false ∧ s.lines.bitClock = false ∧
    s.lines.reset = decide (s.ctl.evt - 1 = 0) ∧ s.lines.readEnable = false ∧
    s.lines.readAck = false := by
  have hl := h.lines_eq
  simp only [State.expectedLines, hm] at hl
  have g := fun n => congrArg (fun l : Lines => l.get n) hl
  exact ⟨g .busClock, g .latch, g .bitClock, g .reset, g .readEnable, g .readAck⟩

/-- A sum over the slots of a list is the slots' number times one slot's. -/
theorem sum_slots (f : Wait → Nat) (slot : Nat → List Event) (c : Nat) (hc : ∀ i, ((slot i).map fun e => f e.wait).sum = c) (w : Nat) :
   (((List.range w).flatMap slot).map fun e => f e.wait).sum = w * c := by
  induction w with
  | zero => simp
  | succ n ih => rw [List.range_succ, List.flatMap_append, List.map_append, List.sum_append, ih]; simp [hc]; ring

/-- A session's tables start in their invariant. -/
theorem Analyzer.fresh_ok (wmax aw : Width) (h : aw ≤ wmax) : (Analyzer.fresh wmax aw).Ok wmax.toNat := by
  constructor
  case aw_le => exact h
  case perbit_length => simp [Analyzer.fresh]
  case hist_length => simp [Analyzer.fresh]
  case row_length => intro r hr; simp [Analyzer.fresh] at hr; rw [hr]; simp
  case column_sum => intro p; simp
  case row_zero => simp
  case column_beyond => simp
  case row_beyond => simp
  case lastMask_lt => show (0:Word).toNat < _; simp
  case lastCount_eq => show (0 : BitVec 6).toNat = popcount 0; decide

/-- A row of the histogram has WMAX cells. -/
theorem Analyzer.Ok.hist_row_length {a : Analyzer} {n} (h : a.Ok n) {k} (hk : k ≤ n) : (a.hist.getD k []).length = n := by
  rw [List.getD_eq_getElem?_getD, List.getElem?_eq_getElem (by rw [h.hist_length]; omega)]
  exact h.row_length _ (List.getElem_mem _)

/-- One edge more of a run. -/
theorem run_succ (n : Nat) (s : State) :
    Host.Core.run Sys2Proof.core (n + 1) s =
      match step s with
      | .next t => Host.Core.run Sys2Proof.core n t
      | .fault r => .fault r
      | .refused r => .refused r := by
  simp only [Host.Core.run, core]
  cases step s <;> rfl

/-- The coming cycle of a run without block reset. -/
theorem State.noReset_head {s : State} {n} (h : s.noReset (n+1)) : s.hostCycle.rst = false := by
  unfold State.hostCycle
  cases hh : s.host with
  | nil => rfl
  | cons c cs => exact h c (by rw [hh]; simp)

/-- The rest of a run without block reset. -/
theorem State.noReset_tail {s t : State} {n} (h : s.noReset (n+1)) (e : t.host = s.host.tail) : t.noReset n := by
  intro c hc
  rw [e] at hc
  apply h c
  cases hh : s.host with
  | nil => rw [hh] at hc; simp at hc
  | cons d cs => rw [hh] at hc; simp at hc ⊢; exact .inr hc

end Sys2Proof.Machine
end

