-- ==== Sys2Proof/Laws/PerInstr.lean ====
section
/-! SUPPORT. What holds of every command as syntax: the fields of its command word (30_encoding.md R70,
R72, R73), one lemma per constructor. -/

namespace Sys2Proof.Laws

/-- The command word of `i` has its opcode in bits 3:0, its width in bits 8:4 and zeros above. -/
def EncodedFields.Statement (i : Instr) : Prop :=
  opField (encode i) = i.opcode ∧ widthField (encode i) = i.width ∧ rsvField (encode i) = 0

theorem EncodedFields.reset : EncodedFields.Statement .reset := encode_fields .reset

theorem EncodedFields.send (w : Width) : EncodedFields.Statement (.send w) := encode_fields (.send w)

theorem EncodedFields.receive (w : Width) : EncodedFields.Statement (.receive w) :=
  encode_fields (.receive w)

theorem EncodedFields.record (w : Width) : EncodedFields.Statement (.record w) :=
  encode_fields (.record w)

theorem EncodedFields.clear (w : Width) : EncodedFields.Statement (.clear w) := encode_fields (.clear w)

end Sys2Proof.Laws
end

