-- ==== Sys2Proof/Tests/Slice0.lean ====
section
/-! SUPPORT. Small tests, their expected values from 95_test_vectors.md and the pseudocode of the rules
named beside them; and, for every obligation with hypotheses, concrete states that meet them, one a clause. -/

open Sys2Proof Sys2Proof.Machine

namespace Sys2Proof.Tests

/-! ## Ill-formed commands, and command words written out -/

theorem test_wellFormed_reset : Instr.reset.wellFormed 9 = true := by decide
theorem test_illFormed_send : (Instr.send 10).wellFormed 9 = false ∧ (Instr.send 9).wellFormed 9 = true := by
  decide
theorem test_illFormed_receive :
    (Instr.receive 10).wellFormed 9 = false ∧ (Instr.receive 9).wellFormed 9 = true := by decide
theorem test_illFormed_record :
    (Instr.record 10).wellFormed 9 = false ∧ (Instr.record 9).wellFormed 9 = true := by decide
theorem test_illFormed_clear :
    (Instr.clear 31).wellFormed 9 = false ∧ (Instr.clear 0).wellFormed 9 = true := by decide

/-- RSV 23 zeros, WIDTH 00000, OP 0001 (30_encoding.md R70, R74). -/
theorem test_decode_reset : decode 0b00000000000000000000000_00000_0001 = .ok .reset := by rfl
/-- WIDTH 01001, OP 0010. -/
theorem test_decode_send : decode 0b00000000000000000000000_01001_0010 = .ok (.send 9) := by rfl
/-- WIDTH 01000, OP 0011. -/
theorem test_decode_receive : decode 0b00000000000000000000000_01000_0011 = .ok (.receive 8) := by rfl
/-- WIDTH 11111, OP 0100. -/
theorem test_decode_record : decode 0b00000000000000000000000_11111_0100 = .ok (.record 31) := by rfl
/-- WIDTH 10000, OP 0101. -/
theorem test_decode_clear : decode 0b00000000000000000000000_10000_0101 = .ok (.clear 16) := by rfl
/-- 95_test_vectors.md 2.1, the words that are no command. -/
theorem test_decode_refuses :
    decode 0x00000011 = .error .rsvBits ∧ decode 0x00000282 = .error .rsvBits ∧
    decode 0x80000003 = .error .rsvBits ∧ decode 0x00000000 = .error .badOp ∧
    decode 0x00000006 = .error .badOp ∧ decode 0x0000000F = .error .badOp ∧
    decode 0x000002A6 = .error .badOp := ⟨rfl, rfl, rfl, rfl, rfl, rfl, rfl⟩
theorem test_decodeTableWord : decodeTableWord 32 0x82 = some (.send 8) := by rfl
/-- A row of sixteen bits has zeros above them. -/
theorem test_decodeTableWord_short : decodeTableWord 16 0xFFFF0093 = some (.receive 9) := by rfl

/-! ## States -/

/-- After block reset, with UNIT_CYCLES = 1. -/
def s1 : State :=
  { State.reset with param := { wmax := 9, syncStages := 2, unitCycles := 1 } }

/-- The state an outcome goes on with. -/
def nextOf : Host.Outcome State Fault Refusal → State
  | .next t => t
  | _ => State.reset

/-- A SEND 1 of bit 1, at its last hold cycle before DataOut is driven. -/
def sSend : State :=
  { s1 with
    ctl := { s1.ctl with mode := .sending, evt := 1, holdCnt := 1, curW := 1, txShift := 1 }
    lines := { Lines.low with busClock := true } }

/-- The same SEND at the end of its Latch pulse's first hold. -/
def sLatch : State :=
  { s1 with
    ctl := { s1.ctl with mode := .sending, evt := 3, holdCnt := 2, curW := 1, txShift := 1 }
    lines := { Lines.low with busClock := true, dataOut := true, latch := true } }

/-- A RECEIVE 1 at its last hold cycle before the sample, the synchroniser full of ones. -/
def sReceive : State :=
  { s1 with
    ctl := { s1.ctl with mode := .receiving, evt := 1, holdCnt := 1, curW := 1 }
    sync := [true, true]
    lines := { Lines.low with readEnable := true } }

/-- A RECEIVE 9 that has assembled 0x18D, at its last cycle (95_test_vectors.md V-RX1). -/
def sReceived : State :=
  { s1 with
    ctl := { s1.ctl with mode := .receiving, evt := 29, holdCnt := 1, curW := 9, rxShift := 0x18D } }

/-- PERBIT[0] and HIST[1][0] at 2^32 - 1 (95_test_vectors.md V-RC15). -/
def sFull : State :=
  { s1 with
    sampleRecv := 1
    ana := { s1.ana with
      perbit := s1.ana.perbit.set 0 (BitVec.allOnes 32)
      hist := s1.ana.hist.set 1 (BitVec.allOnes 32 :: List.replicate 8 0) } }

/-- V-RC3's operands. -/
def sSample : State := { s1 with sampleExp := 0x1FF }

/-- The host's coming access on a state. -/
def bus (op : BusOp) (s : State) : State := { s with host := [{ rst := false, bus := op }] }

/-- The block is reset at the coming edge. -/
def resetting (s : State) : State := { s with host := [{ rst := true, bus := .write 0 0x82 }] }

/-! ## One step of each command -/

/-- 95_test_vectors.md V-RST1: Reset is 1 at the acceptance edge, for 15 cycles. -/
theorem test_reset_starts :
    let t := nextOf (step (s1.withCommand 1))
    t.ctl.mode = .resetting ∧ t.lines.reset = true ∧ t.ctl.holdCnt = 15 := by decide
/-- V-RST4: RXDATA stays. -/
theorem test_reset_keeps_rxData :
    (nextOf (exec .reset { s1 with rxData := 0x5A })).rxData = 0x5A := by decide
/-- V-TX1: BusClock 1, TXDATA latched. -/
theorem test_send_starts :
    let t := nextOf (step (State.withCommand { s1 with txData := 0xA5 } 0x82))
    t.lines.busClock = true ∧ t.ctl.txShift = 0xA5 ∧ t.ctl.curW = 8 ∧ t.ctl.holdCnt = 10 := by decide
/-- V-TX4: DataOut takes bit 0 at the event after the frame start. -/
theorem test_send_drives_dataOut :
    (nextOf (step sSend)).lines.dataOut = true ∧ (nextOf (step sSend)).lines.latch = false := by decide
/-- V-RX1: a sample leaves ReadAck at 0. -/
theorem test_receive_samples :
    let t := nextOf (step sReceive)
    t.ctl.rxBit = true ∧ t.lines.readAck = false ∧ t.log.samples = [⟨0, true⟩] := by decide
/-- V-RX1: RXDATA is 0x18D at the completion edge. -/
theorem test_receive_completes :
    (nextOf (step sReceived)).rxData = 0x18D ∧ (nextOf (step sReceived)).ctl.mode = .idle := by decide
/-- V-RC10. -/
theorem test_record_counts :
    let t := nextOf (exec (.record 3) { s1 with sampleRecv := 5, sampleExp := 6 })
    t.ana.lastMask = 3 ∧ t.ana.lastCount = 2 ∧ t.ana.perbitAt 1 = 1 ∧ t.ana.histAt 2 1 = 1 ∧
    t.ana.histAt 1 1 = 0 := by decide
/-- V-RC15: STATUS reads 0x020. -/
theorem test_record_overflows :
    (nextOf (exec (.record 1) sFull)).read 4 = 0x20 ∧
    (nextOf (exec (.record 1) sFull)).ana = sFull.ana := by decide
/-- V-CL1: the tables read 0. -/
theorem test_clear_zeroes :
    (nextOf (exec (.clear 9) sFull)).read 0x100 = 0 ∧
    (nextOf (exec (.clear 9) sFull)).read 0x880 = 0 := by decide
/-- V-CL2, then V-RC12: RECORD 9 leaves STATUS = 0x410. -/
theorem test_clear_sets_width :
    let t := nextOf (exec (.clear 8) s1)
    t.read 0x20 = 8 ∧ (nextOf (exec (.record 9) t)).read 4 = 0x410 := by decide
/-- V-RC17: STATUS reads 0x115 while a SEND runs. -/
theorem test_refused_while_sending :
    (nextOf (step (sLatch.withCommand 0x84))).read 4 = 0x115 := by decide
/-- A fetch from the reset state runs the row's command. -/
theorem test_withFetchWord :
    (nextOf (step (State.reset.withFetchWord 32 0x82))).ctl.mode = .sending := by decide

/-! ## Witnesses: command words and one clock edge -/

theorem test_witness_CommandWriteIsJudgedInOrder :
    regAt 0 = .cmd ∧ regAt 3 = .cmd ∧ sSend.ctl.mode ≠ .idle ∧ s1.ctl.mode = .idle := by decide
theorem test_witness_CommandWriteIsJudgedInOrder_badOp :
    ((0 : Word).extractLsb' 0 4).toNat ∉ [1, 2, 3, 4, 5] ∧
    ((6 : Word).extractLsb' 0 4).toNat ∉ [1, 2, 3, 4, 5] ∧
    ((0x2AF : Word).extractLsb' 0 4).toNat ∉ [1, 2, 3, 4, 5] := by decide
theorem test_witness_CommandWriteIsJudgedInOrder_rsvBits :
    (0x282 : Word).extractLsb' 9 23 ≠ 0 ∧ (0x80000003 : Word).extractLsb' 9 23 ≠ 0 ∧
    ((0x11 : Word).extractLsb' 0 4).toNat = 1 ∧ (0x11 : Word).extractLsb' 4 5 ≠ 0 := by decide
theorem test_witness_CommandWriteIsJudgedInOrder_badWidth :
    s1.param.wmax < (0xA2 : Word).extractLsb' 4 5 ∧ (0xA2 : Word).extractLsb' 9 23 = 0 ∧
    (nextOf (exec (.clear 8) s1)).ana.aw < (0x94 : Word).extractLsb' 4 5 := by decide
theorem test_witness_CommandWriteIsJudgedInOrder_accept :
    (0x92 : Word).extractLsb' 4 5 ≤ s1.param.wmax ∧ (0x94 : Word).extractLsb' 4 5 ≤ s1.ana.aw ∧
    (0x94 : Word).extractLsb' 9 23 = 0 ∧ ((0x94 : Word).extractLsb' 0 4).toNat = 4 := by decide
theorem test_witness_StepRunsTheDecodedCommand :
    (s1.withCommand 0x92).hostCycle = { rst := false, bus := .write 0 0x92 } ∧ regAt 0 = .cmd ∧
    decode 0x92 = .ok (.send 9) ∧ s1.busy = false ∧ sSend.busy = true ∧
    s1.hostCycle = { rst := false, bus := .none } ∧
    (bus (.write 0x40 7) s1).hostCycle = { rst := false, bus := .write 0x40 7 } :=
  ⟨rfl, rfl, rfl, rfl, rfl, rfl, rfl⟩
/-- The step stores a register write in IDLE, and refuses it while a command runs. -/
theorem test_step_does_register_writes :
    (nextOf (step (bus (.write 0x40 7) s1))).holds.rstHi = 7 ∧
    (nextOf (step (bus (.write 0x40 7) sSend))).status.cause = 5 := by decide
theorem test_witness_QuietEdgeInIdleKeepsTheState :
    s1.busy = false ∧ s1.hostCycle = { rst := false, bus := .none } := by decide
theorem test_witness_ReadsHaveNoSideEffect :
    (bus (.read 0x28) sSend).hostCycle = { rst := false, bus := .read 0x28 } := by decide

/-! ## Witnesses: the register space -/

/-- The last cell of each window, and the first beyond it. -/
theorem test_witness_CounterWindowsShowTheTables :
    (8 < s1.param.wmax.toNat ∧ 9 ≤ s1.param.wmax.toNat) ∧ ¬(9 < s1.param.wmax.toNat) ∧
    ¬(10 ≤ s1.param.wmax.toNat) ∧ sFull.read 0x100 = 0xFFFFFFFF ∧ sFull.read 0x17C = 0 := by decide
theorem test_witness_RegisterWritesAreRefusedOnlyWhileBusy :
    sSend.busy = true ∧ s1.busy = false ∧ regAt 0x008 = .txData ∧ regAt 0x010 = .sampleRecv ∧
    regAt 0x014 = .sampleExp ∧ regAt 0x040 = .hold .rstHi ∧ regAt 0x070 = .hold .rxEnd ∧
    regAt 0x004 = .status ∧ (regAt 0x00C).ignoresWrites = true ∧
    (regAt 0x074).ignoresWrites = true ∧ (regAt 0x1FFC).ignoresWrites = true := by decide
theorem test_witness_WrittenRegistersReadBack :
    s1.busy = false ∧ regAt 0x008 = .txData ∧ regAt 0x070 = .hold .rxEnd ∧
    s1.busAccess (.write 0x070 0xFFFFFFFF) = .next (nextOf (s1.busAccess (.write 0x070 0xFFFFFFFF))) :=
  ⟨rfl, rfl, rfl, rfl⟩
theorem test_witness_ErrorBitsAreClearedAndBlockNothing :
    regAt 0x004 = .status ∧ s1.status.cmdErr = false ∧
    (s1.raiseCmdErr .badOp).status.cmdErr = true ∧
    s1.busAccess (.write 0 0x11) = .next (nextOf (s1.busAccess (.write 0 0x11))) := ⟨rfl, rfl, rfl, rfl⟩

/-- The first and last address of each unmapped range of 20_memory.md R52, and the mapped ones beside them. -/
theorem test_witness_RegisterMapByOffset :
    regAt 0x02C = .unmapped ∧ regAt 0x03F = .unmapped ∧ regAt 0x074 = .unmapped ∧ regAt 0x0FF = .unmapped ∧
    regAt 0x180 = .unmapped ∧ regAt 0x7FF = .unmapped ∧ regAt 0x1800 = .unmapped ∧
    regAt 0x1FFF = .unmapped ∧ regAt 0x02B = .lines ∧ regAt 0x073 = .hold .rxEnd ∧
    regAt 0x17F = .perbit 31 ∧ regAt 0x17FF = .hist 31 31 := by decide
/-- Unmapped addresses of each range read 0 where everything the host can write is set. -/
theorem test_witness_RegistersReadAtTheirOffsets :
    let s := { sFull with txData := 0xFFFFFFFF, sampleExp := 0xFFFFFFFF }
    s.read 0x008 = 0xFFFFFFFF ∧ s.read 0x040 = 15 ∧ s.read 0x02C = 0 ∧ s.read 0x0FC = 0 ∧
    s.read 0x180 = 0 ∧ s.read 0x1FFF = 0 := by decide
/-- An idle and a busy state; addresses at both ends of the ranges that ignore writes. -/
theorem test_witness_WritesReachTheirOffsets :
    s1.busy = false ∧ sSend.busy = true ∧
    (0x02C ≤ (0x02C : Addr).toNat ∧ (0x02C : Addr).toNat < 0x040) ∧
    (0x02C ≤ (0x03F : Addr).toNat ∧ (0x03F : Addr).toNat < 0x040) ∧
    (0x074 ≤ (0x074 : Addr).toNat ∧ (0x074 : Addr).toNat < 0x2000) ∧
    (0x074 ≤ (0x1FFF : Addr).toNat ∧ (0x1FFF : Addr).toNat < 0x2000) := by decide

/-! ## Witnesses: block reset and the commands -/

theorem test_witness_BlockResetOverridesEverything :
    (resetting sSend).hostCycle.rst = true ∧ ∀ a, (resetting sSend).hostCycle.bus ≠ .read a :=
  ⟨rfl, fun _ h => nomatch h⟩
/-- A read of RXDATA in the first cycle of rst returns 0, not the value it held (log entry 10). -/
theorem test_witness_BlockResetOverridesEverything_read :
    let s := { s1 with rxData := 5, host := [{ rst := true, bus := .read 0x00C }] }
    s.hostCycle.rst = true ∧ s.hostCycle.bus = .read 0x00C ∧
    (nextOf (step s)).log.reads = [⟨0, 0x00C, 0⟩] := by decide
theorem test_witness_ResetIsAcceptedInIdle : s1.busy = false := by decide
theorem test_witness_SendIsAcceptedInIdle : s1.busy = false ∧ (9 : Width) ≤ s1.param.wmax := by decide
theorem test_witness_ReceiveIsAcceptedInIdle : s1.busy = false ∧ (0 : Width) ≤ s1.param.wmax := by decide
theorem test_witness_RecordCountsTheMismatch :
    sSample.busy = false ∧ (9 : Width) ≤ sSample.ana.aw ∧ sSample.ana.Ok sSample.param.wmax.toNat ∧
    ∀ p < 9, sSample.ana.perbitAt p ≠ BitVec.allOnes 32 ∧ sSample.ana.histAt 9 p ≠ BitVec.allOnes 32 :=
  ⟨rfl, by decide, Analyzer.fresh_ok _ _ (by decide), by decide⟩
theorem test_witness_RecordOverflowSetsOnlyOvf :
    sFull.busy = false ∧ (1 : Width) ≤ sFull.ana.aw ∧ 0 < (1 : Width).toNat ∧
    sFull.sampleRecv.getLsbD 0 ≠ sFull.sampleExp.getLsbD 0 ∧
    sFull.ana.perbitAt 0 = BitVec.allOnes 32 ∧
    sFull.ana.histAt (sFull.wrongCount 1) 0 = BitVec.allOnes 32 := by decide
theorem test_witness_ClearStartsASession : sFull.busy = false ∧ (9 : Width) ≤ sFull.param.wmax := by decide
theorem test_witness_CommandsWhileBusyAreRefused : sSend.busy = true ∧ sReceive.busy = true := by decide
theorem test_witness_WidthsOutOfRangeAreRefused :
    s1.busy = false ∧ s1.param.wmax < (10 : Width) ∧
    (nextOf (exec (.clear 8) s1)).busy = false ∧ (nextOf (exec (.clear 8) s1)).ana.aw < (9 : Width) := by
  decide
theorem test_witness_CommandsLeaveOtherRegistersAlone :
    exec (.send 9) s1 = .next (nextOf (exec (.send 9) s1)) ∧ regAt 0x00C ≠ .status ∧
    changesAtAcceptance (.send 9) (regAt 0x00C) = false ∧
    changesAtAcceptance (.clear 9) (regAt 0x028) = false := by
  refine ⟨rfl, ?_⟩
  decide
theorem test_witness_EqualWordsChangeNoCounter :
    sSample.busy = false ∧ (9 : Width) ≤ sSample.ana.aw ∧
    ∀ p < (0 : Width).toNat, sSample.sampleRecv.getLsbD p = sSample.sampleExp.getLsbD p := by decide
/-- The words of scenario S2, both 200. -/
theorem test_witness_EqualWordsChangeNoCounter_nine :
    ∀ p < (9 : Width).toNat,
      ({ s1 with sampleRecv := 200, sampleExp := 200 } : State).sampleRecv.getLsbD p =
        ({ s1 with sampleRecv := 200, sampleExp := 200 } : State).sampleExp.getLsbD p := by decide
/-- V-RC4's operands: bit 8 differs from V-RC9's, and bits 31 to 9 too. -/
theorem test_witness_RecordIgnoresUpperBits :
    (∀ p < (8 : Width).toNat, (0xFFFFFFFF : Word).getLsbD p =
        ({ s1 with sampleRecv := 0xFF } : State).sampleRecv.getLsbD p ∧
      (0 : Word).getLsbD p = ({ s1 with sampleRecv := 0xFF } : State).sampleExp.getLsbD p) ∧
    exec (.record 8) s1 = .next (nextOf (exec (.record 8) s1)) := by
  refine ⟨by decide, rfl⟩
theorem test_witness_RecordAddsKToRowK :
    sSample.busy = false ∧ (9 : Width) ≤ sSample.ana.aw ∧ sSample.ana.Ok sSample.param.wmax.toNat ∧
    exec (.record 9) sSample = .next (nextOf (exec (.record 9) sSample)) ∧
    (nextOf (exec (.record 9) sSample)).status = sSample.status ∧
    (nextOf (exec (.record 9) sSample)).log.faults = sSample.log.faults ∧ sSample.wrongCount 9 = 9 := by
  refine ⟨rfl, by decide, Analyzer.fresh_ok _ _ (by decide), rfl, by decide, by decide, by decide⟩

/-! ## Witnesses: the running command -/

theorem test_witness_HoldCountsDown :
    sLatch.busy = true ∧ 1 < sLatch.ctl.holdCnt.toNat ∧
    sLatch.hostCycle = { rst := false, bus := .none } := by decide
/-- The last edge of a command, and one before it. -/
theorem test_witness_EveryEdgeBringsCompletionNearer :
    sReceived.busy = true ∧ sReceived.hostCycle.rst = false ∧ sReceived.remaining = 1 ∧
    sSend.busy = true ∧ sSend.hostCycle.rst = false ∧ sSend.remaining ≠ 1 := by decide
/-- An event's edge with a refused write, and a RECEIVE's completion with no access. -/
theorem test_witness_RunningCommandKeepsTheRest :
    (bus (.write 0x10 1) sSend).busy = true ∧ (bus (.write 0x10 1) sSend).hostCycle.rst = false ∧
    sReceived.busy = true ∧ sReceived.hostCycle.rst = false ∧
    ∀ x v, sReceived.hostCycle.bus ≠ .write x v :=
  ⟨rfl, rfl, rfl, rfl, fun _ _ h => nomatch h⟩
theorem test_witness_CommandDurations :
    (∀ i ∈ [Instr.reset, .send 9, .receive 0, .record 9, .clear 9], i.wellFormed s1.param.wmax = true) ∧
    s1.busy = false ∧ 1 ≤ s1.param.unitCycles.toNat ∧ s1.holds = Holds.reset ∧
    exec (.send 9) s1 = .next (nextOf (exec (.send 9) s1)) := by
  refine ⟨by decide, by decide, by decide, by decide, rfl⟩

/-- A host that does nothing after its command resets no block. -/
theorem noReset_withCommand (v : Word) (n : Nat) : (s1.withCommand v).noReset n := by
  intro c hc
  have h := List.mem_of_mem_take hc
  have e : (s1.withCommand v).host = [{ rst := false, bus := .write 0 v }] := rfl
  rw [e, List.mem_singleton] at h
  rw [h]

theorem test_witness_LinkCommandsRunToCompletion :
    linkMode .reset = some .resetting ∧ linkMode (.send 9) = some .sending ∧
    linkMode (.receive 0) = some .receiving ∧ (s1.withCommand 0x92).busy = false ∧
    (Instr.send 9).wellFormed s1.param.wmax = true ∧ (s1.withCommand 0x92).issues (.send 9) ∧
    (s1.withCommand 0x92).noReset ((s1.withCommand 0x92).cycles (.send 9) + 1) :=
  ⟨rfl, rfl, rfl, rfl, rfl, ⟨0, rfl, rfl⟩, noReset_withCommand _ _⟩
/-- The first event and the last one, each in the last cycle of its hold. -/
theorem test_witness_LinkEventsHappenAtTheirEdges :
    (events .sending 9)[0]? = some ⟨.drive .busClock true, .hold .txStart⟩ ∧
    9 < (s1.withCommand 0x92).waitLen (.hold .txStart) ∧
    (events .sending 9)[46]? = some ⟨.drive .busClock false, .hold .txEnd⟩ ∧
    9 < (s1.withCommand 0x92).waitLen (.hold .txEnd) ∧ (s1.withCommand 0x92).issues (.send 9) ∧
    (s1.withCommand 0x92).noReset
      ((s1.withCommand 0x92).eventTime (events .sending 9) 46 + 9 + 1) :=
  ⟨rfl, by decide, rfl, by decide, ⟨0, rfl, rfl⟩, noReset_withCommand _ _⟩
theorem linkOk_s1 : s1.LinkOk := by constructor <;> decide

/-- The link's invariant does not read the host's accesses. -/
theorem linkOk_issuing (v : Word) : (s1.withCommand v).LinkOk :=
  ⟨linkOk_s1.width_le, linkOk_s1.evt_range, linkOk_s1.hold_pos, linkOk_s1.lines_eq, linkOk_s1.sync_length,
    linkOk_s1.bitIdx_sending, linkOk_s1.bitIdx_receiving, linkOk_s1.rxShift_lt, linkOk_s1.rxData_lt⟩

/-- The last cycle of Reset's hold. -/
theorem test_witness_ResetStepsLastTheirHolds :
    (s1.withCommand 0x01).LinkOk ∧ (s1.withCommand 0x01).busy = false ∧
    (s1.withCommand 0x01).issues .reset ∧ 14 < max 1 (s1.holds.rstHi.toNat * s1.param.unitCycles.toNat) ∧
    (s1.withCommand 0x01).noReset 17 :=
  ⟨linkOk_issuing _, rfl, ⟨0, rfl, rfl⟩, by decide, noReset_withCommand _ _⟩
/-- The first and last bit of a SEND 9, each in the last cycle of a hold; and a SEND without bits. -/
theorem test_witness_SendStepsLastTheirHolds :
    (s1.withCommand 0x92).LinkOk ∧ (s1.withCommand 0x92).busy = false ∧ (9 : Width) ≤ s1.param.wmax ∧
    (s1.withCommand 0x92).issues (.send 9) ∧ (s1.withCommand 0x02).issues (.send 0) ∧
    0 < (9 : Width).toNat ∧ 8 < (9 : Width).toNat ∧
    4 < max 1 (s1.holds.latchHi.toNat * s1.param.unitCycles.toNat) ∧
    9 < max 1 (s1.holds.txEnd.toNat * s1.param.unitCycles.toNat) ∧ (s1.withCommand 0x92).noReset 246 :=
  ⟨linkOk_issuing _, rfl, by decide, ⟨0, rfl, rfl⟩, ⟨0, rfl, rfl⟩, by decide, by decide, by decide, by decide,
    noReset_withCommand _ _⟩
/-- The first and last bit of a RECEIVE 9, each in the last cycle of a hold; and a RECEIVE without bits. -/
theorem test_witness_ReceiveStepsLastTheirHolds :
    (s1.withCommand 0x93).LinkOk ∧ (s1.withCommand 0x93).busy = false ∧ (9 : Width) ≤ s1.param.wmax ∧
    (s1.withCommand 0x93).issues (.receive 9) ∧ (s1.withCommand 0x03).issues (.receive 0) ∧
    0 < (9 : Width).toNat ∧ 8 < (9 : Width).toNat ∧
    4 < max 1 (s1.holds.rxSample.toNat * s1.param.unitCycles.toNat) ∧
    4 < max 1 (s1.holds.rxEnd.toNat * s1.param.unitCycles.toNat) ∧ (s1.withCommand 0x93).noReset 151 :=
  ⟨linkOk_issuing _, rfl, by decide, ⟨0, rfl, rfl⟩, ⟨0, rfl, rfl⟩, by decide, by decide, by decide, by decide,
    noReset_withCommand _ _⟩
theorem test_witness_ReceiveAssemblesItsSamples :
    (s1.withCommand 0x93).busy = false ∧ (9 : Width) ≤ (s1.withCommand 0x93).param.wmax ∧
    (s1.withCommand 0x93).issues (.receive 9) ∧
    (s1.withCommand 0x93).noReset ((s1.withCommand 0x93).receiveCycles 9 + 1) :=
  ⟨rfl, by decide, ⟨0, rfl, rfl⟩, noReset_withCommand _ _⟩

/-- A RECEIVE 2 whose samples are both 1, after a SEND that latched 0xFF. -/
def sEcho : State :=
  { s1.withCommand 0x23 with
    ctl := { s1.ctl with txShift := 0xFF }
    pins := List.replicate 30 true }

theorem test_witness_EchoedWordComesBack :
    sEcho.busy = false ∧ (2 : Width) ≤ sEcho.param.wmax ∧ sEcho.issues (.receive 2) ∧
    sEcho.noReset (sEcho.receiveCycles 2 + 1) ∧
    ∀ i < 2, sEcho.syncAt (sEcho.sampleTime i) = sEcho.ctl.txShift.getLsbD i :=
  ⟨rfl, by decide, ⟨0, rfl, rfl⟩, noReset_withCommand 0x23 _, by decide⟩
/-- A pin that is 1 shows after two edges. -/
theorem test_witness_SynchroniserDelaysThePin :
    let s := { s1 with pins := [true, false, false] }
    s.noReset 2 ∧ Host.Core.run Sys2Proof.core 2 s = .next (nextOf (Host.Core.run Sys2Proof.core 2 s)) ∧
    s.syncAt 2 = true ∧ (nextOf (Host.Core.run Sys2Proof.core 2 s)).dataInSync = true :=
  ⟨by intro c hc; exact absurd (List.mem_of_mem_take hc) (List.not_mem_nil), rfl, by decide, by decide⟩

/-! ## Witnesses: invariants -/

theorem linkOk_sSend : sSend.LinkOk := by constructor <;> decide
theorem linkOk_sLatch : sLatch.LinkOk := by constructor <;> decide
theorem linkOk_sReceive : sReceive.LinkOk := by constructor <;> decide

theorem test_witness_SendLineProperties :
    sLatch.LinkOk ∧ sLatch.lines.latch = true ∧ sSend.LinkOk ∧ step sSend = .next (nextOf (step sSend)) ∧
    sSend.hostCycle.rst = false ∧ (nextOf (step sSend)).lines.dataOut ≠ sSend.lines.dataOut :=
  ⟨linkOk_sLatch, rfl, linkOk_sSend, rfl, rfl, by decide⟩
theorem test_witness_SamplesAreTakenBetweenAcks :
    sReceive.LinkOk ∧ step sReceive = .next (nextOf (step sReceive)) ∧
    (nextOf (step sReceive)).log.samples ≠ sReceive.log.samples :=
  ⟨linkOk_sReceive, rfl, by decide⟩
theorem test_witness_EveryStepKeepsTheLinkInvariant :
    s1.LinkOk ∧ step s1 = .next (nextOf (step s1)) ∧ sSend.LinkOk ∧
    step sSend = .next (nextOf (step sSend)) := ⟨linkOk_s1, rfl, linkOk_sSend, rfl⟩
theorem test_witness_EveryStepKeepsTheTables :
    (sSample.withCommand 0x94).ana.Ok (sSample.withCommand 0x94).param.wmax.toNat ∧
    step (sSample.withCommand 0x94) = .next (nextOf (step (sSample.withCommand 0x94))) ∧
    (nextOf (step (sSample.withCommand 0x94))).ana ≠ sSample.ana :=
  ⟨Analyzer.fresh_ok _ _ (by decide), rfl, by decide⟩
theorem test_witness_EveryStepKeepsTheErrors :
    (s1.withCommand 0x11).ErrorsOk ∧
    step (s1.withCommand 0x11) = .next (nextOf (step (s1.withCommand 0x11))) ∧
    (nextOf (step (s1.withCommand 0x11))).status.cause = 3 :=
  ⟨⟨by decide, fun h => absurd h (by decide), by decide⟩, rfl, by decide⟩

/-! ## Witnesses: what steps change -/

theorem test_witness_ParamIsFixed : step (resetting s1) = .next (nextOf (step (resetting s1))) := rfl
theorem test_witness_FaultRecordOnlyGrows :
    step (s1.withCommand 0) = .next (nextOf (step (s1.withCommand 0))) ∧
    (nextOf (step (s1.withCommand 0))).log.faults ≠ s1.log.faults := ⟨rfl, by decide⟩
theorem test_witness_RxDataChangesOnlyAtCompletion :
    step sReceived = .next (nextOf (step sReceived)) ∧ (nextOf (step sReceived)).rxData ≠ sReceived.rxData ∧
    (nextOf (step (resetting { s1 with rxData := 5 }))).rxData ≠ 5 := ⟨rfl, by decide, by decide⟩
theorem test_witness_TablesChangeOnlyByRecordOrClear :
    step (sFull.withCommand 0x95) = .next (nextOf (step (sFull.withCommand 0x95))) ∧
    (nextOf (step (sFull.withCommand 0x95))).ana ≠ sFull.ana ∧
    (nextOf (step (sSample.withCommand 0x94))).ana ≠ sSample.ana ∧
    (nextOf (step (resetting sFull))).ana ≠ sFull.ana := ⟨rfl, by decide, by decide, by decide⟩
theorem test_witness_CountersAreMonotone :
    step (sSample.withCommand 0x94) = .next (nextOf (step (sSample.withCommand 0x94))) ∧
    (sSample.withCommand 0x94).hostCycle.rst = false ∧
    ∀ w, ¬(sSample.withCommand 0x94).issues (.clear w) := by
  refine ⟨rfl, rfl, fun w h => ?_⟩
  obtain ⟨a, _, h⟩ := h
  have e : encode (.clear w) = 0x94 := (BusOp.write.inj (congrArg HostCycle.bus h)).2.symm
  clear h
  revert w
  decide
theorem test_witness_LineTraceIsExact :
    step sSend = .next (nextOf (step sSend)) ∧
    (nextOf (step sSend)).log.lineTrace = [⟨0, .dataOut, true⟩] := ⟨rfl, by decide⟩
theorem test_witness_DataInCannotSteer :
    ({ sReceive with
        pins := [true], sync := [false, false], rxData := 5
        ctl := { sReceive.ctl with rxShift := 7, rxBit := true }
        log := { sReceive.log with samples := [], reads := [] } } : State) ≠ sReceive := by decide
/-- Both hosts keep from resetting the block, one of them tries a CMD write. -/
theorem test_witness_HostCannotAlterARunningCommand :
    2 ≤ sSend.remaining ∧ sSend.noReset 2 ∧
    State.noReset { sSend with host := [{ rst := false, bus := .write 0 1 }] } 2 := by
  refine ⟨by decide, ?_, ?_⟩
  · intro c hc; exact absurd (List.mem_of_mem_take hc) (List.not_mem_nil)
  · exact noReset_withCommand 1 2
theorem test_witness_SendIgnoresUpperBits :
    (s1.withCommand 0x82).busy = false ∧ (8 : Width) ≤ s1.param.wmax ∧
    (s1.withCommand 0x82).issues (.send 8) ∧ 221 ≤ (s1.withCommand 0x82).sendCycles 8 + 1 ∧
    (s1.withCommand 0x82).noReset 221 ∧
    ∀ i < (8 : Width).toNat, (0xFFFFFF00 : Word).getLsbD i = (s1.withCommand 0x82).txData.getLsbD i :=
  ⟨rfl, by decide, ⟨0, rfl, rfl⟩, by decide, noReset_withCommand _ _, by decide⟩

end Sys2Proof.Tests
end

section
/-! PROOF. What one clock edge does to the parts of the state that no event of a link command writes. -/

namespace Sys2Proof.Machine

/-! ## The inputs, the synchroniser and PARAM -/

/-- What a host access leaves alone in every STATE. -/
structure State.SameInputs (s t : State) : Prop where
  sync : t.sync = s.sync
  host : t.host = s.host
  pins : t.pins = s.pins
  param : t.param = s.param
  edge : t.log.edge = s.log.edge

/-- The inputs, the edge number and PARAM are no host access's to change (10_state.md R35). -/
theorem State.busAccess_sameInputs {op : BusOp} {s t : State} (h : s.busAccess op = .next t) :
    s.SameInputs t := by
  cases hb : s.busy with
  | true =>
    obtain ⟨st, faults, reads, rfl⟩ := State.busAccess_busy hb h
    constructor <;> rfl
  | false =>
    cases State.busAccess_idle hb h with
    | record w _ =>
      rcases s.recordSample_cases w with ⟨_, e⟩ | ⟨_, e⟩ <;> rw [e] <;> constructor <;> rfl
    | _ => constructor <;> rfl

/-! ## The edge after the host's access -/

/-- The controller's part of an edge, whether or not a command was running. -/
theorem State.controllerEdge_same (s t : State) :
    t.SameOutsideLink (if s.busy then t.advance else t) := by
  split
  · exact t.advance_same
  · constructor <;> rfl

@[simp] theorem State.finishEdge_status (s t : State) : (s.finishEdge t).status = t.status :=
  (s.controllerEdge_same t).status
@[simp] theorem State.finishEdge_faults (s t : State) :
    (s.finishEdge t).log.faults = t.log.faults :=
  (s.controllerEdge_same t).faults
@[simp] theorem State.finishEdge_ana (s t : State) : (s.finishEdge t).ana = t.ana :=
  (s.controllerEdge_same t).ana
@[simp] theorem State.finishEdge_param (s t : State) : (s.finishEdge t).param = t.param :=
  (s.controllerEdge_same t).param
@[simp] theorem State.finishEdge_host (s t : State) : (s.finishEdge t).host = t.host.tail :=
  congrArg List.tail (s.controllerEdge_same t).host
@[simp] theorem State.finishEdge_pins (s t : State) : (s.finishEdge t).pins = t.pins.tail :=
  congrArg List.tail (s.controllerEdge_same t).pins
@[simp] theorem State.finishEdge_edge (s t : State) :
    (s.finishEdge t).log.edge = t.log.edge + 1 :=
  congrArg (· + 1) (s.controllerEdge_same t).edge

@[simp] theorem State.finishEdge_sync (s t : State) :
    (s.finishEdge t).sync = (t.pin :: t.sync).take t.sync.length := by
  have same := s.controllerEdge_same t
  simp [State.finishEdge, State.pin, same.sync, same.pins, same.edge]

/-- The edge of block reset, as far as the reset values are concerned (70_reset_and_hazards.md R180). -/
theorem State.resetEdge_eq (op : BusOp) (s : State) :
    ∃ log, s.resetEdge op = { s.blockReset with
      host := s.host.tail, pins := s.pins.tail, log := log } ∧ log.faults = s.log.faults := by
  cases op <;> exact ⟨_, rfl, rfl⟩

/-- Every step is a block reset, or a host access and what the controller does after it. -/
theorem step_inv {s t : State} (h : step s = .next t) :
    (s.hostCycle.rst = true ∧ t = s.resetEdge s.hostCycle.bus) ∨
    (s.hostCycle.rst = false ∧ ∃ u, s.busAccess s.hostCycle.bus = .next u ∧ t = s.finishEdge u) := by
  rcases step_cases s with ⟨hr, e⟩ | ⟨hr, u, hu, e⟩
  · exact .inl ⟨hr, next_inj (e.symm.trans h)⟩
  · exact .inr ⟨hr, u, hu, next_inj (e.symm.trans h)⟩

/-- How the inputs move at an edge without block reset (10_state.md R30, log entry 1). -/
structure State.InputsMove (s t : State) : Prop where
  sync : t.sync = (s.pin :: s.sync).take s.sync.length
  host : t.host = s.host.tail
  pins : t.pins = s.pins.tail
  edge : t.log.edge = s.log.edge + 1

theorem step_inputsMove {s t : State} (hr : s.hostCycle.rst = false) (h : step s = .next t) :
    s.InputsMove t := by
  rcases step_inv h with ⟨hr', _⟩ | ⟨_, u, hu, rfl⟩
  · simp [hr] at hr'
  · have same := State.busAccess_sameInputs hu
    constructor <;> simp [State.pin, same.sync, same.host, same.pins, same.edge]

/-- Settles O50: neither block reset, nor a host access, nor the controller writes PARAM. -/
theorem paramIsFixed : Obligations.ParamIsFixed := by
  intro s t h
  rcases step_inv h with ⟨_, rfl⟩ | ⟨_, u, hu, rfl⟩
  · obtain ⟨log, e, _⟩ := s.resetEdge_eq s.hostCycle.bus
    rw [e, State.blockReset_param]
  · rw [State.finishEdge_param, (State.busAccess_sameInputs hu).param]

/-! ## The synchroniser as a delay -/

/-- What is expected of the synchroniser at the coming edge is what it shows. -/
theorem State.syncAt_zero (s : State) : s.syncAt 0 = s.dataInSync := by
  unfold State.syncAt State.dataInSync State.pinAt State.pin
  cases hs : s.sync with
  | nil => cases s.pins <;> rfl
  | cons b bs => simp [List.getLast?_eq_getElem?]

theorem State.InputsMove.pinAt {s t : State} (h : s.InputsMove t) (n : Nat) :
    t.pinAt n = s.pinAt (n + 1) := by
  have he : s.log.edge + 1 + n = s.log.edge + (n + 1) := by omega
  unfold State.pinAt
  rw [h.pins, h.edge, he]
  cases s.pins <;> simp

/-- One edge brings what is expected of the synchroniser one cycle nearer. -/
theorem State.InputsMove.syncAt {s t : State} (h : s.InputsMove t) (n : Nat) :
    t.syncAt n = s.syncAt (n + 1) := by
  have hlen : t.sync.length = s.sync.length := by rw [h.sync]; simp
  unfold State.syncAt
  rw [hlen, h.pinAt]
  rcases Nat.lt_trichotomy (n + 1) s.sync.length with hlt | heq | hgt
  · have hi : s.sync.length - 1 - n = s.sync.length - 1 - (n + 1) + 1 := by omega
    rw [if_pos (by omega), if_pos hlt, h.sync, hi, List.getD_eq_getElem?_getD,
      List.getElem?_take_of_lt (by omega), List.getElem?_cons_succ, ← List.getD_eq_getElem?_getD]
  · have hi : s.sync.length - 1 - n = 0 := by omega
    rw [if_pos (by omega), if_neg (by omega), h.sync, hi, ← heq, Nat.sub_self]
    simp only [State.pinAt, State.pin]
    cases s.pins <;> simp
  · have hi : n - s.sync.length + 1 = n + 1 - s.sync.length := by omega
    rw [if_neg (by omega), if_neg (by omega), hi]

/-- Settles O43, by induction on the number of edges: each moves the pin one stage on. -/
theorem synchroniserDelaysThePin : Obligations.SynchroniserDelaysThePin := by
  intro s t n hn h
  induction n generalizing s with
  | zero => exact next_inj h ▸ s.syncAt_zero.symm
  | succ n ih =>
    obtain ⟨u, hu⟩ : ∃ u, step s = .next u := by
      rcases step_cases s with ⟨_, e⟩ | ⟨_, u, _, e⟩ <;> exact ⟨_, e⟩
    have move := step_inputsMove (State.noReset_head hn) hu
    rw [run_succ, hu] at h
    rw [ih u (State.noReset_tail hn move.host) h, move.syncAt]

end Sys2Proof.Machine
end

section
/-! PROOF. The analyzer: which accesses change it, and what the change keeps (10_state.md R41, R43). -/

namespace Sys2Proof.Machine

/-! ## What changes the analyzer -/

/-- A command word stands for no other command. -/
theorem eq_encode_of_decode {v : Word} {i : Instr} (h : decode v = .ok i) : v = encode i := by
  obtain ⟨hop, hwidth, hrsv⟩ := decode_fields h
  obtain ⟨eop, ewidth, ersv⟩ := encode_fields i
  exact word_eq_of_fields (hop.trans eop.symm) (hwidth.trans ewidth.symm) (hrsv.trans ersv.symm)

/-- The analyzer after command `i` on `s`: unchanged, or counted up, or fresh. -/
inductive State.AnalyzerEffect (s : State) : Instr → Analyzer → Prop where
  | same (i : Instr) : s.AnalyzerEffect i s.ana
  | record (w : Width) (width : w ≤ s.ana.aw)
      (room : s.ana.wouldOverflow (s.mismatchMask w) (s.wrongCount w) w.toNat = false) :
      s.AnalyzerEffect (.record w) (s.ana.count (s.mismatchMask w) (s.wrongCount w))
  | clear (w : Width) (width : w ≤ s.param.wmax) :
      s.AnalyzerEffect (.clear w) (Analyzer.fresh s.param.wmax w)

/-- An accepted command's effect on the analyzer is that of its meaning; a refusal has none. -/
theorem State.accept_analyzer {i : Instr} {p : Prop} [Decidable p] {s t : State} {run : State → State}
    (h : s.accept (decide p) run = .next t) (hrun : p → s.AnalyzerEffect i (run s).ana) :
    s.AnalyzerEffect i t.ana := by
  rcases s.accept_cases (decide p) run with ⟨_, e⟩ | ⟨_, hok, e⟩ | ⟨_, _, e⟩
  · exact next_inj (e.symm.trans h) ▸ .same i
  · exact next_inj (e.symm.trans h) ▸ hrun (of_decide_eq_true hok)
  · exact next_inj (e.symm.trans h) ▸ .same i

theorem State.recordSample_analyzer {w : Width} {s : State} (hw : w ≤ s.ana.aw) :
    s.AnalyzerEffect (.record w) (s.recordSample w).ana := by
  rcases s.recordSample_cases w with ⟨_, e⟩ | ⟨room, e⟩
  · exact e ▸ .same _
  · exact e ▸ .record w hw room

theorem exec_analyzer {i : Instr} {s t : State} (h : exec i s = .next t) :
    s.AnalyzerEffect i t.ana := by
  cases i with
  | reset => exact State.accept_analyzer (p := True) h fun _ => .same _
  | send w => exact State.accept_analyzer h fun _ => .same _
  | receive w => exact State.accept_analyzer h fun _ => .same _
  | record w => exact State.accept_analyzer h State.recordSample_analyzer
  | clear w => exact State.accept_analyzer h (.clear w)

theorem State.writeReg_ana {r : Reg} (hr : r ≠ .cmd) {v : Word} {s t : State}
    (h : s.writeReg r v = .next t) : t.ana = s.ana := by
  have guarded : ∀ u : State, u.ana = s.ana → (s.guardedWrite u).ana = s.ana := fun u hu => by
    unfold State.guardedWrite
    split
    · rfl
    · exact hu
  cases r with
  | cmd => exact absurd rfl hr
  | txData | sampleRecv | sampleExp | hold => exact next_inj h ▸ guarded _ rfl
  | _ => exact next_inj h ▸ rfl

/-- A host access changes the analyzer only as a command issued in IDLE. -/
theorem State.busAccess_analyzer {op : BusOp} {s t : State} (h : s.busAccess op = .next t) :
    t.ana = s.ana ∨ (s.busy = false ∧ ∃ a i, regAt a = .cmd ∧ op = .write a (encode i) ∧
      s.AnalyzerEffect i t.ana) := by
  cases op with
  | none => exact .inl (next_inj h ▸ rfl)
  | read a => exact .inl (next_inj h ▸ rfl)
  | write a v =>
    change s.writeReg (regAt a) v = .next t at h
    by_cases ha : regAt a = .cmd
    · rw [ha] at h
      change s.issueCommand v = .next t at h
      unfold State.issueCommand at h
      split at h
      · exact .inl (next_inj h ▸ rfl)
      · rename_i hb
        cases hd : decode v with
        | error e => rw [hd] at h; exact .inl (next_inj h ▸ rfl)
        | ok i =>
          rw [hd] at h
          exact .inr ⟨by simpa using hb, a, i, ha, eq_encode_of_decode hd ▸ rfl, exec_analyzer h⟩
    · exact .inl (State.writeReg_ana ha h)

/-- Everything an edge without block reset does to the analyzer. -/
theorem step_analyzer {s t : State} (hr : s.hostCycle.rst = false) (h : step s = .next t) :
    t.ana = s.ana ∨ (s.busy = false ∧ ∃ i, s.issues i ∧ s.AnalyzerEffect i t.ana) := by
  rcases step_inv h with ⟨hr', _⟩ | ⟨_, u, hu, rfl⟩
  · simp [hr] at hr'
  · rw [State.finishEdge_ana]
    refine (State.busAccess_analyzer hu).imp_right fun ⟨hb, a, i, ha, hop, heff⟩ => ?_
    have hissues : s.issues i := ⟨a, ha, by rw [← hr, ← hop]⟩
    exact ⟨hb, i, hissues, heff⟩

/-- Settles O53: of the commands only RECORD and CLEAR have an effect on the analyzer. -/
theorem tablesChangeOnlyByRecordOrClear : Obligations.TablesChangeOnlyByRecordOrClear := by
  intro s t h hne
  cases hr : s.hostCycle.rst with
  | true => exact .inl rfl
  | false =>
    rcases step_analyzer hr h with e | ⟨hb, i, hi, heff⟩
    · exact absurd e hne
    · generalize t.ana = a at hne heff
      cases heff with
      | same => exact absurd rfl hne
      | record w => exact .inr ⟨hb, w, .inl hi⟩
      | clear w => exact .inr ⟨hb, w, .inr hi⟩

/-! ## What a RECORD counts -/

theorem mismatchMask_lt_width {s : State} {w : Width} {p : Nat}
    (h : (s.mismatchMask w).getLsbD p = true) : p < w.toNat := by
  rw [mismatchMask_getLsbD, Bool.and_eq_true, decide_eq_true_eq] at h
  exact h.1

theorem mismatchMask_toNat_lt (s : State) (w : Width) : (s.mismatchMask w).toNat < 2 ^ w.toNat :=
  Nat.lt_pow_two_of_testBit _ fun i hi => by
    by_contra hb
    exact absurd (mismatchMask_lt_width (by simpa [BitVec.getLsbD] using hb)) (Nat.not_lt.mpr hi)

/-- Where a RECORD has room, no counter that it increments stands at its largest value. -/
theorem not_allOnes_of_room {s : State} {w : Width}
    (room : s.ana.wouldOverflow (s.mismatchMask w) (s.wrongCount w) w.toNat = false) {p : Nat}
    (hp : (s.mismatchMask w).getLsbD p = true) :
    s.ana.perbitAt p ≠ BitVec.allOnes 32 ∧ s.ana.histAt (s.wrongCount w) p ≠ BitVec.allOnes 32 := by
  rw [Bool.eq_false_iff, Ne, Analyzer.wouldOverflow_iff] at room
  push Not at room
  exact room p (mismatchMask_lt_width hp) hp

theorem toNat_add_one_of_ne_allOnes {c : BitVec 32} (h : c ≠ BitVec.allOnes 32) :
    (c + 1).toNat = c.toNat + 1 := by
  have hmax : (BitVec.allOnes 32).toNat = 4294967295 := by decide
  bv_omega

/-- PERBIT after a RECORD with room, as numbers: no counter wraps. -/
theorem count_perbit_toNat {s : State} {w : Width}
    (room : s.ana.wouldOverflow (s.mismatchMask w) (s.wrongCount w) w.toNat = false) (p : Nat) :
    ((s.ana.count (s.mismatchMask w) (s.wrongCount w)).perbitAt p).toNat =
      (s.ana.perbitAt p).toNat +
        if (s.mismatchMask w).getLsbD p = true ∧ p < s.ana.perbit.length then 1 else 0 := by
  rw [Analyzer.count_perbitAt]
  split
  · rename_i hp
    exact toNat_add_one_of_ne_allOnes (not_allOnes_of_room room hp.1).1
  · rfl

/-- HIST after a RECORD with room, as numbers: no counter wraps. -/
theorem count_hist_toNat {s : State} {w : Width}
    (room : s.ana.wouldOverflow (s.mismatchMask w) (s.wrongCount w) w.toNat = false) (k p : Nat) :
    ((s.ana.count (s.mismatchMask w) (s.wrongCount w)).histAt k p).toNat =
      (s.ana.histAt k p).toNat +
        if k = s.wrongCount w ∧ s.wrongCount w < s.ana.hist.length ∧
          (s.mismatchMask w).getLsbD p = true ∧
          p < (s.ana.hist.getD (s.wrongCount w) []).length then 1 else 0 := by
  rw [Analyzer.count_histAt]
  split
  · rename_i hp
    obtain ⟨rfl, _, hp, _⟩ := hp
    exact toNat_add_one_of_ne_allOnes (not_allOnes_of_room room hp).2
  · rfl

/-- Settles O54: a RECORD adds, and it adds only where no counter wraps. -/
theorem countersAreMonotone : Obligations.CountersAreMonotone := by
  intro s t h hr hclear k p
  rcases step_analyzer hr h with e | ⟨_, i, hi, heff⟩
  · rw [e]
    exact ⟨le_rfl, le_rfl⟩
  · generalize t.ana = a at heff
    cases heff with
    | same => exact ⟨le_rfl, le_rfl⟩
    | record w _ room =>
      rw [count_perbit_toNat room, count_hist_toNat room]
      exact ⟨Nat.le_add_right _ _, Nat.le_add_right _ _⟩
    | clear w => exact absurd hi (hclear w)

/-! ## The analyzer's invariant -/

/-- Of the rows of a table exactly one is row `k`. -/
theorem sum_range_indicator {n k : Nat} (hk : k < n) :
    ((List.range n).map fun i => if i = k then 1 else 0).sum = 1 := by
  rw [List.sum_map_eq_nsmul_single k _ fun i hi _ => if_neg hi,
    List.count_eq_one_of_mem List.nodup_range (List.mem_range.mpr hk), if_pos rfl]
  rfl

/-- A RECORD with room keeps the invariant: mask and wrong-bit count select one cell of PERBIT and one of
HIST in each differing column (41_analyzer.md R121, R129). -/
theorem Analyzer.Ok.count {n : Nat} {s : State} {w : Width} (h : s.ana.Ok n) (hw : w ≤ s.ana.aw)
    (room : s.ana.wouldOverflow (s.mismatchMask w) (s.wrongCount w) w.toNat = false) :
    (s.ana.count (s.mismatchMask w) (s.wrongCount w)).Ok n := by
  have hwa : w.toNat ≤ s.ana.aw.toNat := hw
  have hcount := wrongCount_le s w
  have hrow : s.wrongCount w ≤ n := by have := h.aw_le; omega
  have hrowlen := h.hist_row_length hrow
  have hcol : ∀ {p}, (s.mismatchMask w).getLsbD p = true → p < s.ana.aw.toNat ∧ p < n := fun hp => by
    have := mismatchMask_lt_width hp
    have := h.aw_le
    omega
  constructor
  case aw_le => exact h.aw_le
  case perbit_length => simpa [Analyzer.count] using h.perbit_length
  case hist_length => simpa [Analyzer.count] using h.hist_length
  case row_length =>
    intro r hr
    rcases List.mem_or_eq_of_mem_set hr with hr | rfl
    · exact h.row_length r hr
    · rw [bumpFrom_length, hrowlen]
  case column_sum =>
    intro p
    simp only [count_hist_toNat room, count_perbit_toNat room, h.column_sum p, h.perbit_length,
      h.hist_length, hrowlen]
    by_cases hm : (s.mismatchMask w).getLsbD p = true
    · simp [hm, (hcol hm).2, Nat.lt_succ_of_le hrow, sum_range_indicator]
    · simp [hm]
  case row_zero =>
    intro p
    rw [Analyzer.count_histAt, if_neg, h.row_zero p]
    rintro ⟨hk, _, hp, _⟩
    exact absurd hp (by rw [getLsbD_of_popcount_zero hk.symm]; decide)
  case column_beyond =>
    intro p hp
    have hm : (s.mismatchMask w).getLsbD p ≠ true := fun hm => absurd (hcol hm).1 (Nat.not_lt.mpr hp)
    obtain ⟨hperbit, hhist⟩ := h.column_beyond p hp
    exact ⟨by simp [Analyzer.count_perbitAt, hm, hperbit],
      fun k => by simp [Analyzer.count_histAt, hm, hhist k]⟩
  case row_beyond =>
    intro k hk p
    rw [Analyzer.count_histAt, if_neg, h.row_beyond k hk p]
    rintro ⟨rfl, _⟩
    exact absurd (hcount.trans hwa) (Nat.not_le.mpr hk)
  case lastMask_lt =>
    exact (mismatchMask_toNat_lt s w).trans_le (Nat.pow_le_pow_right (by omega) hwa)
  case lastCount_eq =>
    rw [Analyzer.count_lastCount, Analyzer.count_lastMask, BitVec.toNat_ofNat]
    exact Nat.mod_eq_of_lt (by have := w.isLt; omega)

/-- Settles O48: CLEAR and block reset start a session, a RECORD counts in one column's two cells, and
nothing else changes the analyzer. -/
theorem everyStepKeepsTheTables : Obligations.EveryStepKeepsTheTables := by
  intro s t hok h
  rw [paramIsFixed s t h]
  cases hr : s.hostCycle.rst with
  | true =>
    rcases step_inv h with ⟨_, rfl⟩ | ⟨hr', _⟩
    · obtain ⟨log, e, _⟩ := s.resetEdge_eq s.hostCycle.bus
      rw [e]
      exact Analyzer.fresh_ok _ _ (Nat.le_refl _)
    · simp [hr] at hr'
  | false =>
    rcases step_analyzer hr h with e | ⟨_, i, _, heff⟩
    · exact e ▸ hok
    · generalize t.ana = a at heff
      cases heff with
      | same => exact hok
      | record w width room => exact hok.count width room
      | clear w width => exact Analyzer.fresh_ok _ _ width

end Sys2Proof.Machine
end

section
/-! PROOF. The link's invariant, kept by every edge (10_state.md R24, R28, R30, R37;
40_link.md R92, R105, R112). -/

namespace Sys2Proof.Machine

/-! ## What the invariant depends on -/

/-- The parts of the state that the link's invariant reads are the same. -/
structure State.SameLink (s t : State) : Prop where
  ctl : t.ctl = s.ctl
  lines : t.lines = s.lines
  sync : t.sync.length = s.sync.length
  rxData : t.rxData = s.rxData
  param : t.param = s.param

theorem State.LinkOk.congr {s t : State} (h : s.LinkOk) (e : s.SameLink t) : t.LinkOk := by
  obtain ⟨hctl, hlines, hsync, hrx, hparam⟩ := e
  constructor
  case width_le => rw [hctl, hparam]; exact h.width_le
  case evt_range => simpa only [State.busy, State.program, hctl] using h.evt_range
  case hold_pos => simpa only [State.busy, hctl] using h.hold_pos
  case lines_eq => simpa only [State.expectedLines, hctl, hlines] using h.lines_eq
  case sync_length => rw [hsync, hparam]; exact h.sync_length
  case bitIdx_sending => rw [hctl]; exact h.bitIdx_sending
  case bitIdx_receiving => rw [hctl]; exact h.bitIdx_receiving
  case rxShift_lt => rw [hctl]; exact h.rxShift_lt
  case rxData_lt => rw [hrx, hparam]; exact h.rxData_lt

/-- The end of an edge moves the synchroniser's stages and the inputs, no part of the invariant. -/
theorem State.LinkOk.endEdge {s : State} (h : s.LinkOk) (old : Lines) :
    ((s.shiftSync.recordLines old).endCycle).LinkOk :=
  h.congr ⟨rfl, rfl, by simp, rfl, rfl⟩

theorem State.LinkOk.idle_lines {s : State} (h : s.LinkOk) (hm : s.ctl.mode = .idle) :
    s.lines = { Lines.low with dataOut := s.lines.dataOut } := by
  have hl := h.lines_eq
  simpa only [State.expectedLines, hm] using hl

/-- Block reset meets the invariant from any state. -/
theorem State.blockReset_linkOk (s : State) : s.blockReset.LinkOk := by
  have idle : s.blockReset.ctl.mode = .idle := rfl
  constructor
  case width_le => exact Nat.zero_le _
  case evt_range => intro hb; exact absurd idle (State.busy_iff.mp hb)
  case hold_pos => intro hb; exact absurd idle (State.busy_iff.mp hb)
  case lines_eq => rfl
  case sync_length => simp [syncReset]
  case bitIdx_sending => intro hm; cases hm
  case bitIdx_receiving => intro hm; cases hm
  case rxShift_lt => intro hm; cases hm
  case rxData_lt => exact Nat.two_pow_pos _

/-! ## Acceptance -/

theorem State.program_length_pos {s : State} (hb : s.busy = true) : 1 ≤ s.program.length := by
  have hm := State.busy_iff.mp hb
  unfold State.program
  cases hmode : s.ctl.mode with
  | idle => exact absurd hmode hm
  | resetting => simp [events]
  | sending => simp [events]
  | receiving => simp [events]

/-- A command whose event E0 has just happened keeps the invariant, if its lines are right. -/
theorem State.LinkOk.begun {s t : State} (h : s.LinkOk) (evt : t.ctl.evt = 1)
    (hold : ∃ r, t.ctl.holdCnt = BitVec.ofNat 32 (s.holdLen r))
    (width : t.ctl.curW ≤ t.param.wmax) (rxShift : t.ctl.mode = .receiving → t.ctl.rxShift = 0)
    (lines : t.lines = t.expectedLines)
    (same : t.sync = s.sync ∧ t.rxData = s.rxData ∧ t.param = s.param) : t.LinkOk := by
  obtain ⟨hsync, hrx, hparam⟩ := same
  obtain ⟨r, hold⟩ := hold
  constructor
  case width_le => exact width
  case evt_range => exact fun hb => ⟨evt.ge, evt ▸ State.program_length_pos hb⟩
  case hold_pos =>
    rw [hold, BitVec.toNat_ofNat, Nat.mod_eq_of_lt (s.holdLen_lt r)]
    exact fun _ => s.holdLen_pos r
  case lines_eq => exact lines
  case sync_length => rw [hsync, hparam]; exact h.sync_length
  case bitIdx_sending => intro _ h2; omega
  case bitIdx_receiving => intro _ h2; omega
  case rxShift_lt => intro hm; rw [rxShift hm]; exact Nat.two_pow_pos _
  case rxData_lt => rw [hrx, hparam]; exact h.rxData_lt

/-- Acceptance of RESET: the Reset line rises (40_link.md R100). -/
theorem State.LinkOk.start_reset {s : State} (h : s.LinkOk) (hidle : s.ctl.mode = .idle) :
    (s.start { s.ctl with mode := .resetting }).LinkOk := by
  rw [State.start_reset]
  refine h.begun rfl ⟨_, rfl⟩ h.width_le (by simp) ?_ ⟨rfl, rfl, rfl⟩
  rw [h.idle_lines hidle]
  rfl

/-- Acceptance of SEND: BusClock rises (40_link.md R103). -/
theorem State.LinkOk.start_send {s : State} (h : s.LinkOk) (hidle : s.ctl.mode = .idle) {w : Width}
    (hw : w ≤ s.param.wmax) :
    (s.start { s.ctl with mode := .sending, curW := w, txShift := s.txData }).LinkOk := by
  rw [State.start_send]
  refine h.begun rfl ⟨_, rfl⟩ hw (by simp) ?_ ⟨rfl, rfl, rfl⟩
  rw [h.idle_lines hidle]
  simp [State.expectedLines, Lines.set, Lines.low]

/-- Acceptance of RECEIVE: ReadEnable rises (40_link.md R110). -/
theorem State.LinkOk.start_receive {s : State} (h : s.LinkOk) (hidle : s.ctl.mode = .idle) {w : Width}
    (hw : w ≤ s.param.wmax) :
    (s.start { s.ctl with mode := .receiving, curW := w, rxShift := 0 }).LinkOk := by
  rw [State.start_receive]
  refine h.begun rfl ⟨_, rfl⟩ hw (by simp) ?_ ⟨rfl, rfl, rfl⟩
  rw [h.idle_lines hidle]
  simp [State.expectedLines, Lines.set, Lines.low]

/-- A host access in IDLE keeps the invariant. -/
theorem State.LinkOk.idleAccess {s t : State} (h : s.LinkOk) (hidle : s.ctl.mode = .idle)
    (ht : s.IdleAccess t) : t.LinkOk := by
  cases ht with
  | reset => exact h.start_reset hidle
  | send w hw => exact h.start_send hidle hw
  | receive w hw => exact h.start_receive hidle hw
  | record w =>
    rcases s.recordSample_cases w with ⟨_, e⟩ | ⟨_, e⟩ <;> exact e ▸ h.congr ⟨rfl, rfl, rfl, rfl, rfl⟩
  | _ => exact h.congr ⟨rfl, rfl, rfl, rfl, rfl⟩

/-! ## The events of a running command -/

/-- The lines after an action are what claims say of it. -/
theorem State.perform_lines (a : Action) (s : State) :
    (s.perform a).lines = lineEffect s.ctl.txShift s.lines a := by
  cases a <;> rfl

/-- The state after an event of the running command and the start of its hold. -/
def State.afterEvent (s : State) (e : Event) : State := (s.perform e.act).startHold e.wait

section
variable (s : State) (e : Event)

@[simp] theorem State.afterEvent_mode : (s.afterEvent e).ctl.mode = s.ctl.mode :=
  s.perform_mode e.act
@[simp] theorem State.afterEvent_evt : (s.afterEvent e).ctl.evt = s.ctl.evt + 1 :=
  congrArg (· + 1) (s.perform_evt e.act)
@[simp] theorem State.afterEvent_curW : (s.afterEvent e).ctl.curW = s.ctl.curW :=
  s.perform_curW e.act
@[simp] theorem State.afterEvent_txShift : (s.afterEvent e).ctl.txShift = s.ctl.txShift :=
  s.perform_txShift e.act
@[simp] theorem State.afterEvent_bitIdx :
    (s.afterEvent e).ctl.bitIdx = (s.perform e.act).ctl.bitIdx := rfl
@[simp] theorem State.afterEvent_rxShift :
    (s.afterEvent e).ctl.rxShift = (s.perform e.act).ctl.rxShift := rfl
@[simp] theorem State.afterEvent_rxData : (s.afterEvent e).rxData = s.rxData :=
  s.perform_rxData e.act
@[simp] theorem State.afterEvent_param : (s.afterEvent e).param = s.param :=
  (s.perform_same e.act).param
@[simp] theorem State.afterEvent_sync : (s.afterEvent e).sync = s.sync :=
  (s.perform_same e.act).sync
@[simp] theorem State.afterEvent_lines :
    (s.afterEvent e).lines = lineEffect s.ctl.txShift s.lines e.act :=
  s.perform_lines e.act
theorem State.afterEvent_program : (s.afterEvent e).program = s.program :=
  State.program_congr (s.afterEvent_mode e) (s.afterEvent_curW e)
theorem State.afterEvent_hold_pos : 1 ≤ (s.afterEvent e).ctl.holdCnt.toNat := by
  rw [State.afterEvent, State.startHold_holdCnt_toNat]
  exact State.waitLen_pos _ _

end

/-- An event keeps the invariant if it keeps what its mode says of lines, BITIDX and RXSHIFT. -/
theorem State.LinkOk.event {s : State} (h : s.LinkOk) {e : Event}
    (he : s.program[s.ctl.evt]? = some e)
    (lines : (s.afterEvent e).lines = (s.afterEvent e).expectedLines)
    (sending : s.ctl.mode = .sending → 1 ≤ s.ctl.evt → s.ctl.evt ≤ 5 * s.ctl.curW.toNat →
      (s.perform e.act).ctl.bitIdx.toNat = (s.ctl.evt - 1) / 5)
    (receiving : s.ctl.mode = .receiving → 1 ≤ s.ctl.evt → s.ctl.evt ≤ 3 * s.ctl.curW.toNat →
      (s.perform e.act).ctl.bitIdx.toNat = (s.ctl.evt - 1) / 3)
    (rxShift : s.ctl.mode = .receiving →
      (s.perform e.act).ctl.rxShift.toNat < 2 ^ s.ctl.curW.toNat) : (s.afterEvent e).LinkOk := by
  have hlt : s.ctl.evt < s.program.length := (List.getElem?_eq_some_iff.mp he).1
  constructor
  case width_le => simpa using h.width_le
  case evt_range => rw [s.afterEvent_program e, s.afterEvent_evt e]; omega
  case hold_pos => exact fun _ => s.afterEvent_hold_pos e
  case lines_eq => exact lines
  case sync_length => simpa using h.sync_length
  case bitIdx_sending =>
    simp only [State.afterEvent_mode, State.afterEvent_evt, State.afterEvent_curW]
    exact fun hm h2 hle => sending hm (by omega) (by omega)
  case bitIdx_receiving =>
    simp only [State.afterEvent_mode, State.afterEvent_evt, State.afterEvent_curW]
    exact fun hm h2 hle => receiving hm (by omega) (by omega)
  case rxShift_lt => simpa using rxShift
  case rxData_lt => simpa using h.rxData_lt

/-! ### RESET -/

/-- The event of RESET after E0: the Reset line falls (40_link.md R100). -/
theorem State.LinkOk.event_resetting {s : State} (h : s.LinkOk) (hm : s.ctl.mode = .resetting)
    {e : Event} (he : s.program[s.ctl.evt]? = some e) : (s.afterEvent e).LinkOk := by
  refine h.event he ?_ (by simp [hm]) (by simp [hm]) (by simp [hm])
  obtain ⟨hbus, hlatch, hbit, _, hre, hra⟩ := h.resetting_lines hm
  have hpos : 1 ≤ s.ctl.evt := (h.evt_range (by simp [State.busy, hm])).1
  have hprog : resetEvents[s.ctl.evt]? = some e := by simpa [State.program, events, hm] using he
  have hevt : s.ctl.evt = 1 := by
    have hlt := (List.getElem?_eq_some_iff.mp hprog).1
    rw [resetEvents_length] at hlt
    omega
  rw [hevt] at hprog
  obtain rfl := Option.some.inj hprog
  simp [State.expectedLines, hm, hevt, lineEffect, Lines.set, Lines.low, hbus, hlatch, hbit, hre, hra]

/-! ### SEND -/

/-- The lines before step `r` of a bit slot of SEND: Latch is 1 before step 2, BitClock before step 4
(40_link.md R103, R105). -/
def sendLinesBefore (r : Nat) (out : Bool) : Lines :=
  { Lines.low with busClock := true, latch := r = 2, bitClock := r = 4, dataOut := out }

/-- The lines after step `r` of a bit slot of SEND. -/
def sendLinesAfter (r : Nat) (out : Bool) : Lines :=
  { Lines.low with busClock := true, latch := r = 1, bitClock := r = 3, dataOut := out }

theorem lineEffect_sendSlot {tx : Word} {i r : Nat} {e : Event} (hs : (sendSlot i)[r]? = some e)
    (out : Bool) : lineEffect tx (sendLinesBefore r out) e.act =
      sendLinesAfter r (if r = 0 then tx.getLsbD i else out) := by
  match r with
  | 0 | 1 | 2 | 3 | 4 => obtain rfl := Option.some.inj hs; rfl
  | n + 5 => simp [sendSlot] at hs

theorem perform_sendSlot_bitIdx {s : State} {i r : Nat} {e : Event} (hs : (sendSlot i)[r]? = some e) :
    (s.perform e.act).ctl.bitIdx = if r = 0 then BitVec.ofNat 5 i else s.ctl.bitIdx := by
  match r with
  | 0 | 1 | 2 | 3 | 4 => obtain rfl := Option.some.inj hs; rfl
  | n + 5 => simp [sendSlot] at hs

/-- The lines that the invariant gives before step `r` of slot `i`; the last event stands where step 0 of
a slot `w` would. -/
theorem State.LinkOk.lines_before_sendStep {s : State} (h : s.LinkOk) (hm : s.ctl.mode = .sending)
    {i r : Nat} (hir : 5 * i + r ≤ 5 * s.ctl.curW.toNat) (hr : r < 5) (hn : s.ctl.evt = 5 * i + r + 1) :
    s.lines = sendLinesBefore r s.lines.dataOut := by
  obtain ⟨hbus, hlatch, hbit, _, hreset, hre, hra⟩ := h.sending_lines hm
  refine Lines.ext_get fun n => ?_
  cases n with
  | busClock => exact hbus.trans (decide_eq_true (by omega))
  | latch => exact hlatch.trans (decide_eq_decide.mpr (by omega))
  | bitClock => exact hbit.trans (decide_eq_decide.mpr (by omega))
  | dataOut => rfl
  | reset => exact hreset
  | readEnable => exact hre
  | readAck => exact hra

/-- DataOut as the invariant gives it once a bit has been driven. -/
theorem State.LinkOk.sending_dataOut {s : State} (h : s.LinkOk) (hm : s.ctl.mode = .sending)
    (hlo : 2 ≤ s.ctl.evt) (hhi : s.ctl.evt ≤ 5 * s.ctl.curW.toNat + 1) :
    s.lines.dataOut = s.ctl.txShift.getLsbD ((s.ctl.evt - 2) / 5) := by
  obtain ⟨_, _, _, hdata, _⟩ := h.sending_lines hm
  rw [hdata (by omega) (by omega)]
  congr 1
  omega

/-- The lines that the invariant asks for after a bit slot's step. -/
theorem State.expectedLines_sendSlot {t : State} (hm : t.ctl.mode = .sending) {i r : Nat}
    (hi : i < t.ctl.curW.toNat) (hr : r < 5) (hn : t.ctl.evt = 5 * i + r + 2) :
    t.expectedLines = sendLinesAfter r (t.ctl.txShift.getLsbD i) := by
  have hbit : min ((5 * i + r + 1 - 1) / 5) (t.ctl.curW.toNat - 1) = i := by omega
  have hj : t.ctl.evt - 1 = 5 * i + r + 1 := by omega
  simp only [State.expectedLines, hm, hj, hbit, sendLinesAfter, Lines.mk.injEq, decide_eq_decide,
    decide_eq_true_eq, and_true]
  exact ⟨by omega, by omega, by omega, if_pos (by omega)⟩

/-- DataOut after SEND's last event: the last bit driven, if there was one (40_link.md R107). -/
def State.lastTxBit (s : State) : Bool :=
  if 1 ≤ s.ctl.curW.toNat then s.ctl.txShift.getLsbD (s.ctl.curW.toNat - 1) else s.lines.dataOut

/-- The lines that the invariant asks for after SEND's last event. -/
theorem State.expectedLines_sendEnd {t : State} (hm : t.ctl.mode = .sending)
    (hn : t.ctl.evt = 5 * t.ctl.curW.toNat + 2) :
    t.expectedLines = { Lines.low with dataOut := t.lastTxBit } := by
  have hj : t.ctl.evt - 1 = 5 * t.ctl.curW.toNat + 1 := by omega
  simp [State.expectedLines, hm, hj, Lines.low, State.lastTxBit]

theorem State.LinkOk.lastTxBit_eq {s : State} (h : s.LinkOk) (hm : s.ctl.mode = .sending)
    (hn : s.ctl.evt = 5 * s.ctl.curW.toNat + 1) : s.lastTxBit = s.lines.dataOut := by
  unfold State.lastTxBit
  split
  · rw [h.sending_dataOut hm (by omega) (by omega),
      show (s.ctl.evt - 2) / 5 = s.ctl.curW.toNat - 1 by omega]
  · rfl

/-- A step of a bit slot of SEND (40_link.md R103). -/
theorem State.LinkOk.event_sendSlot {s : State} (h : s.LinkOk) (hm : s.ctl.mode = .sending)
    {e : Event} (he : s.program[s.ctl.evt]? = some e) {i r : Nat} (hi : i < s.ctl.curW.toNat)
    (hr : r < 5) (hn : s.ctl.evt = 5 * i + r + 1) (hs : (sendSlot i)[r]? = some e) :
    (s.afterEvent e).LinkOk := by
  refine h.event he ?_ (fun _ _ _ => ?_) (by simp [hm]) (by simp [hm])
  · rw [State.expectedLines_sendSlot (t := s.afterEvent e) (by simpa using hm) (by simpa using hi) hr
        (by simp [hn]), s.afterEvent_lines, s.afterEvent_txShift,
      h.lines_before_sendStep hm (by omega) hr hn, lineEffect_sendSlot hs]
    split
    · rfl
    · rw [h.sending_dataOut hm (by omega) (by omega), show (s.ctl.evt - 2) / 5 = i by omega]
  · rw [perform_sendSlot_bitIdx hs]
    split
    · rw [BitVec.toNat_ofNat, Nat.mod_eq_of_lt (by have := s.ctl.curW.isLt; omega)]
      omega
    · rw [h.bitIdx_sending hm (by omega) (by omega)]
      omega

/-- The last event of SEND: BusClock falls. -/
theorem State.LinkOk.event_sendEnd {s : State} (h : s.LinkOk) (hm : s.ctl.mode = .sending)
    (he : s.program[s.ctl.evt]? = some ⟨.drive .busClock false, .hold .txEnd⟩)
    (hn : s.ctl.evt = 5 * s.ctl.curW.toNat + 1) :
    (s.afterEvent ⟨.drive .busClock false, .hold .txEnd⟩).LinkOk := by
  refine h.event he ?_ (fun _ _ _ => by omega) (by simp [hm]) (by simp [hm])
  have hbefore := h.lines_before_sendStep hm (i := s.ctl.curW.toNat) (r := 0) le_rfl (by omega) hn
  rw [State.expectedLines_sendEnd (by simpa using hm) (by simp [hn])]
  change s.lines.set .busClock false = { Lines.low with dataOut := s.lastTxBit }
  rw [h.lastTxBit_eq hm hn, hbefore]
  rfl

/-- The events of SEND after E0 (40_link.md R103). -/
theorem State.LinkOk.event_sending {s : State} (h : s.LinkOk) (hm : s.ctl.mode = .sending)
    {e : Event} (he : s.program[s.ctl.evt]? = some e) : (s.afterEvent e).LinkOk := by
  have hpos : 1 ≤ s.ctl.evt := (h.evt_range (by simp [State.busy, hm])).1
  have hprog : (sendEvents s.ctl.curW.toNat)[s.ctl.evt]? = some e := by
    simpa [State.program, events, hm] using he
  rcases sendEvents_cases hprog with ⟨h0, _⟩ | ⟨i, r, hi, hr, hn, hs⟩ | ⟨hn, rfl⟩
  · omega
  · exact h.event_sendSlot hm he hi hr hn hs
  · exact h.event_sendEnd hm he hn

/-! ### RECEIVE -/

/-- The lines before step `r` of a bit slot of RECEIVE: ReadAck is 1 before step 2 (40_link.md R110,
R112). -/
def receiveLinesBefore (r : Nat) (out : Bool) : Lines :=
  { Lines.low with readEnable := true, readAck := r = 2, dataOut := out }

/-- The lines after step `r` of a bit slot of RECEIVE. -/
def receiveLinesAfter (r : Nat) (out : Bool) : Lines :=
  { Lines.low with readEnable := true, readAck := r = 1, dataOut := out }

theorem lineEffect_receiveSlot {tx : Word} {i r : Nat} {e : Event} (hs : (receiveSlot i)[r]? = some e)
    (out : Bool) : lineEffect tx (receiveLinesBefore r out) e.act = receiveLinesAfter r out := by
  match r with
  | 0 | 1 | 2 => obtain rfl := Option.some.inj hs; rfl
  | n + 3 => simp [receiveSlot] at hs

theorem perform_receiveSlot_bitIdx {s : State} {i r : Nat} {e : Event}
    (hs : (receiveSlot i)[r]? = some e) :
    (s.perform e.act).ctl.bitIdx = if r = 0 then BitVec.ofNat 5 i else s.ctl.bitIdx := by
  match r with
  | 0 | 1 | 2 => obtain rfl := Option.some.inj hs; rfl
  | n + 3 => simp [receiveSlot] at hs

/-- Writing bit `i` of a word that has no bit at or above `w` keeps it so, for `i` below `w`. -/
theorem writeBit_toNat_lt {x : Word} {i w : Nat} (hi : i < w) (hx : x.toNat < 2 ^ w) (b : Bool) :
    (if b then x ||| BitVec.twoPow 32 i else x &&& ~~~ BitVec.twoPow 32 i).toNat < 2 ^ w := by
  cases b with
  | true =>
    have hbit : (BitVec.twoPow 32 i).toNat < 2 ^ w := by
      rw [BitVec.toNat_twoPow]
      exact (Nat.mod_le _ _).trans_lt (Nat.pow_lt_pow_right (by norm_num) hi)
    rw [if_pos rfl, BitVec.toNat_or]
    exact Nat.or_lt_two_pow hx hbit
  | false =>
    rw [if_neg Bool.false_ne_true, BitVec.toNat_and]
    exact Nat.and_le_left.trans_lt hx

theorem perform_receiveSlot_rxShift_lt {s : State} {i r w : Nat} {e : Event}
    (hs : (receiveSlot i)[r]? = some e) (hi : i < w) (hx : s.ctl.rxShift.toNat < 2 ^ w) :
    (s.perform e.act).ctl.rxShift.toNat < 2 ^ w := by
  match r with
  | 0 | 2 => obtain rfl := Option.some.inj hs; exact hx
  | 1 => obtain rfl := Option.some.inj hs; exact writeBit_toNat_lt hi hx s.ctl.rxBit
  | n + 3 => simp [receiveSlot] at hs

/-- The lines that the invariant gives before step `r` of slot `i`; the last event stands where step 0 of
a slot `w` would. -/
theorem State.LinkOk.lines_before_receiveStep {s : State} (h : s.LinkOk) (hm : s.ctl.mode = .receiving)
    {i r : Nat} (hir : 3 * i + r ≤ 3 * s.ctl.curW.toNat) (hr : r < 3) (hn : s.ctl.evt = 3 * i + r + 1) :
    s.lines = receiveLinesBefore r s.lines.dataOut := by
  obtain ⟨hbus, hlatch, hbit, hreset, hre, hra⟩ := h.receiving_lines hm
  refine Lines.ext_get fun n => ?_
  cases n with
  | busClock => exact hbus
  | latch => exact hlatch
  | bitClock => exact hbit
  | dataOut => rfl
  | reset => exact hreset
  | readEnable => exact hre.trans (decide_eq_true (by omega))
  | readAck => exact hra.trans (decide_eq_decide.mpr (by omega))

/-- The lines that the invariant asks for after a bit slot's step. -/
theorem State.expectedLines_receiveSlot {t : State} (hm : t.ctl.mode = .receiving) {i r : Nat}
    (hi : i < t.ctl.curW.toNat) (hr : r < 3) (hn : t.ctl.evt = 3 * i + r + 2) :
    t.expectedLines = receiveLinesAfter r t.lines.dataOut := by
  have hj : t.ctl.evt - 1 = 3 * i + r + 1 := by omega
  simp only [State.expectedLines, hm, hj, receiveLinesAfter, Lines.mk.injEq, decide_eq_decide,
    decide_eq_true_eq, true_and]
  exact ⟨by omega, by omega⟩

/-- The lines that the invariant asks for after RECEIVE's last event. -/
theorem State.expectedLines_receiveEnd {t : State} (hm : t.ctl.mode = .receiving)
    (hn : t.ctl.evt = 3 * t.ctl.curW.toNat + 2) :
    t.expectedLines = { Lines.low with dataOut := t.lines.dataOut } := by
  simp [State.expectedLines, hm, hn, Lines.low]

/-- A step of a bit slot of RECEIVE (40_link.md R110). -/
theorem State.LinkOk.event_receiveSlot {s : State} (h : s.LinkOk) (hm : s.ctl.mode = .receiving)
    {e : Event} (he : s.program[s.ctl.evt]? = some e) {i r : Nat} (hi : i < s.ctl.curW.toNat)
    (hr : r < 3) (hn : s.ctl.evt = 3 * i + r + 1) (hs : (receiveSlot i)[r]? = some e) :
    (s.afterEvent e).LinkOk := by
  refine h.event he ?_ (by simp [hm]) (fun _ _ _ => ?_)
    (fun _ => perform_receiveSlot_rxShift_lt hs hi (h.rxShift_lt hm))
  · rw [State.expectedLines_receiveSlot (t := s.afterEvent e) (by simpa using hm) (by simpa using hi) hr
        (by simp [hn]), s.afterEvent_lines,
      h.lines_before_receiveStep hm (by omega) hr hn, lineEffect_receiveSlot hs]
    rfl
  · rw [perform_receiveSlot_bitIdx hs]
    split
    · rw [BitVec.toNat_ofNat, Nat.mod_eq_of_lt (by have := s.ctl.curW.isLt; omega)]
      omega
    · rw [h.bitIdx_receiving hm (by omega) (by omega)]
      omega

/-- The last event of RECEIVE: ReadEnable falls. -/
theorem State.LinkOk.event_receiveEnd {s : State} (h : s.LinkOk) (hm : s.ctl.mode = .receiving)
    (he : s.program[s.ctl.evt]? = some ⟨.drive .readEnable false, .hold .rxEnd⟩)
    (hn : s.ctl.evt = 3 * s.ctl.curW.toNat + 1) :
    (s.afterEvent ⟨.drive .readEnable false, .hold .rxEnd⟩).LinkOk := by
  refine h.event he ?_ (by simp [hm]) (fun _ _ _ => by omega) (fun _ => h.rxShift_lt hm)
  have hbefore := h.lines_before_receiveStep hm (i := s.ctl.curW.toNat) (r := 0) le_rfl (by omega) hn
  rw [State.expectedLines_receiveEnd (by simpa using hm) (by simp [hn]), State.afterEvent_lines,
    hbefore]
  rfl

/-- The events of RECEIVE after E0 (40_link.md R110). -/
theorem State.LinkOk.event_receiving {s : State} (h : s.LinkOk) (hm : s.ctl.mode = .receiving)
    {e : Event} (he : s.program[s.ctl.evt]? = some e) : (s.afterEvent e).LinkOk := by
  have hpos : 1 ≤ s.ctl.evt := (h.evt_range (by simp [State.busy, hm])).1
  have hprog : (receiveEvents s.ctl.curW.toNat)[s.ctl.evt]? = some e := by
    simpa [State.program, events, hm] using he
  rcases receiveEvents_cases hprog with ⟨h0, _⟩ | ⟨i, r, hi, hr, hn, hs⟩ | ⟨hn, rfl⟩
  · omega
  · exact h.event_receiveSlot hm he hi hr hn hs
  · exact h.event_receiveEnd hm he hn

/-! ## Holds and completion -/

/-- A hold that lasts keeps the invariant. -/
theorem State.LinkOk.countDown {s : State} (h : s.LinkOk) (hold : 1 < s.ctl.holdCnt.toNat) :
    State.LinkOk { s with ctl := { s.ctl with holdCnt := s.ctl.holdCnt - 1 } } := by
  obtain ⟨width_le, evt_range, _, lines_eq, sync_length, bitIdx_sending, bitIdx_receiving, rxShift_lt,
    rxData_lt⟩ := h
  refine ⟨width_le, evt_range, fun _ => ?_, lines_eq, sync_length, bitIdx_sending, bitIdx_receiving,
    rxShift_lt, rxData_lt⟩
  show 1 ≤ (s.ctl.holdCnt - 1).toNat
  bv_omega

/-- After the last event of a command every line but DataOut is 0 (10_state.md R28). -/
theorem State.LinkOk.lines_at_end {s : State} (h : s.LinkOk) (hb : s.busy = true)
    (hend : s.ctl.evt = s.program.length) :
    s.lines = { Lines.low with dataOut := s.lines.dataOut } := by
  have hl := h.lines_eq
  cases hm : s.ctl.mode with
  | idle => exact absurd hm (State.busy_iff.mp hb)
  | resetting =>
    have hn : s.ctl.evt = 2 := by simpa [State.program, events, hm] using hend
    simp only [State.expectedLines, hm, hn] at hl
    exact hl
  | sending =>
    have hn : s.ctl.evt = 5 * s.ctl.curW.toNat + 2 := by simpa [State.program, events, hm] using hend
    rw [State.expectedLines_sendEnd hm hn] at hl
    rw [hl]
  | receiving =>
    have hn : s.ctl.evt = 3 * s.ctl.curW.toNat + 2 := by simpa [State.program, events, hm] using hend
    exact hl.trans (State.expectedLines_receiveEnd hm hn)

/-- The completion edge keeps the invariant: RXDATA takes a word of CUR_W bits (40_link.md R115). -/
theorem State.LinkOk.complete {s : State} (h : s.LinkOk) (hb : s.busy = true)
    (hend : s.program[s.ctl.evt]? = none) : s.complete.LinkOk := by
  have hlen : s.ctl.evt = s.program.length :=
    Nat.le_antisymm (h.evt_range hb).2 (List.getElem?_eq_none_iff.mp hend)
  constructor
  case width_le => exact h.width_le
  case evt_range => intro hb'; cases hb'
  case hold_pos => intro hb'; cases hb'
  case lines_eq => exact h.lines_at_end hb hlen
  case sync_length => exact h.sync_length
  case bitIdx_sending => intro hm; cases hm
  case bitIdx_receiving => intro hm; cases hm
  case rxShift_lt => intro hm; cases hm
  case rxData_lt =>
    rw [State.complete_rxData, State.complete_param]
    split
    · exact (h.rxShift_lt ‹_›).trans_le (Nat.pow_le_pow_right (by omega) h.width_le)
    · exact h.rxData_lt

/-- Every edge of a running command keeps the invariant. -/
theorem State.LinkOk.advance {s : State} (h : s.LinkOk) (hb : s.busy = true) : s.advance.LinkOk := by
  rcases s.advance_cases with ⟨hold, e⟩ | ⟨_, ev, he, e⟩ | ⟨_, hend, e⟩
  · exact e ▸ h.countDown hold
  · rw [e]
    change (s.afterEvent ev).LinkOk
    cases hm : s.ctl.mode with
    | idle => exact absurd hm (State.busy_iff.mp hb)
    | resetting => exact h.event_resetting hm he
    | sending => exact h.event_sending hm he
    | receiving => exact h.event_receiving hm he
  · exact e ▸ h.complete hb hend

/-- Settles O47: block reset meets the invariant; in IDLE a host access keeps it; and while a command runs
its next edge does, whatever the host accesses. -/
theorem everyStepKeepsTheLinkInvariant : Obligations.EveryStepKeepsTheLinkInvariant := by
  intro s t hok h
  cases hr : s.hostCycle.rst with
  | true =>
    rcases step_inv h with ⟨_, rfl⟩ | ⟨hr', _⟩
    · obtain ⟨log, e, _⟩ := s.resetEdge_eq s.hostCycle.bus
      exact e ▸ s.blockReset_linkOk.congr ⟨rfl, rfl, rfl, rfl, rfl⟩
    · simp [hr] at hr'
  | false =>
    cases hb : s.busy with
    | false =>
      obtain ⟨u, _, hu, e⟩ := step_idle hb hr
      exact next_inj (e.symm.trans h) ▸ (hok.idleAccess (State.not_busy_iff.mp hb) hu).endEdge s.lines
    | true =>
      obtain ⟨u, e, hu⟩ := step_busy hb hr
      obtain rfl := next_inj (e.symm.trans h)
      exact (hok.advance hb).congr
        ⟨hu.ctl, hu.lines, by simp [hu.sync, s.advance_same.sync], hu.rxData,
          by rw [hu.param, s.advance_same.param]⟩

end Sys2Proof.Machine
end

section
/-! PROOF. The errors of STATUS and the fault record, the reset state, the register words, and the edges
inside a hold (10_state.md R24, R31, R33, R35 to R38, R42). -/

namespace Sys2Proof.Machine

/-! ## Errors -/

/-- Everything a host access does to STATUS and to the fault record. -/
inductive State.ErrorEffect (s t : State) : Prop where
  | same (status : t.status = s.status) (faults : t.log.faults = s.log.faults)
  | written (v : Word) (status : t.status = s.status.written v) (faults : t.log.faults = s.log.faults)
  | refused (c : Cause) (status : t.status = s.status.refusing c)
      (faults : t.log.faults = ⟨s.log.edge, .cmdErr c⟩ :: s.log.faults)
  | overflow (status : t.status = { s.status with ovf := true })
      (faults : t.log.faults = ⟨s.log.edge, .ovf⟩ :: s.log.faults)

/-- While a command runs, only a STATUS write and a refusal touch STATUS and the fault record. -/
theorem State.writeReg_errors_of_busy {r : Reg} {v : Word} {s t : State} (hb : s.busy = true)
    (h : s.writeReg r v = .next t) : s.ErrorEffect t := by
  have guarded : ∀ u : State, s.ErrorEffect (s.guardedWrite u) := fun u => by
    rw [State.guardedWrite, if_pos hb]
    exact .refused _ rfl rfl
  cases r with
  | cmd =>
    have hi : s.issueCommand v = .next (s.raiseCmdErr .busyCmd) := by simp [State.issueCommand, hb]
    exact next_inj (hi.symm.trans h) ▸ .refused _ rfl rfl
  | status => exact next_inj h ▸ .written v rfl rfl
  | txData | sampleRecv | sampleExp | hold => exact next_inj h ▸ guarded _
  | _ => exact next_inj h ▸ .same rfl rfl

theorem State.IdleAccess.errors {s t : State} (h : s.IdleAccess t) : s.ErrorEffect t := by
  cases h with
  | refused c => exact .refused c rfl rfl
  | status v => exact .written v rfl rfl
  | record w =>
    rcases s.recordSample_cases w with ⟨_, e⟩ | ⟨_, e⟩
    · exact e ▸ .overflow rfl rfl
    · exact e ▸ .same rfl rfl
  | _ => exact .same rfl rfl

theorem State.busAccess_errors {op : BusOp} {s t : State} (h : s.busAccess op = .next t) :
    s.ErrorEffect t := by
  cases hb : s.busy with
  | false => exact (State.busAccess_idle hb h).errors
  | true =>
    cases op with
    | none => exact next_inj h ▸ .same rfl rfl
    | read a => exact next_inj h ▸ .same rfl rfl
    | write a v => exact State.writeReg_errors_of_busy (r := regAt a) hb h

theorem State.ErrorsOk.congr {s t : State} (h : s.ErrorsOk) (hst : t.status = s.status)
    (hf : t.log.faults = s.log.faults) : t.ErrorsOk := by
  obtain ⟨none, recorded, ovf⟩ := h
  rw [← hst] at none recorded ovf
  rw [← hf] at recorded ovf
  exact ⟨none, recorded, ovf⟩

/-- A STATUS write with bit 4 clears CMDERR and CAUSE. -/
theorem Status.written_clears (f : Status) {v : Word} (hv : v.getLsbD 4 = true) :
    (f.written v).cmdErr = false ∧ (f.written v).cause = 0 := by
  rw [Status.written, hv]
  exact ⟨Bool.and_false _, rfl⟩

/-- A STATUS write without bit 4 keeps CMDERR and CAUSE. -/
theorem Status.written_keeps (f : Status) {v : Word} (hv : v.getLsbD 4 = false) :
    (f.written v).cmdErr = f.cmdErr ∧ (f.written v).cause = f.cause := by
  rw [Status.written, hv]
  exact ⟨Bool.and_true _, rfl⟩

/-- Every host access keeps the errors' invariant: what STATUS newly shows is recorded at the same edge,
and the first cause stays the recorded one (60_exceptions.md R150, R161). -/
theorem State.ErrorsOk.access {s t : State} (h : s.ErrorsOk) (e : s.ErrorEffect t) : t.ErrorsOk := by
  cases e with
  | same hst hf => exact h.congr hst hf
  | written v hst hf =>
    have hovf : t.status.ovf = true → s.status.ovf = true := fun ht => by
      rw [hst, Status.written, Bool.and_eq_true] at ht
      exact ht.1
    cases hv : v.getLsbD 4 with
    | true =>
      obtain ⟨hcmdErr, hcause⟩ := Status.written_clears s.status hv
      rw [← hst] at hcmdErr hcause
      exact ⟨fun _ => hcause, fun ht => (by simp [hcmdErr] at ht), fun ht => hf ▸ h.ovf_recorded (hovf ht)⟩
    | false =>
      obtain ⟨hcmdErr, hcause⟩ := Status.written_keeps s.status hv
      rw [← hst] at hcmdErr hcause
      exact ⟨by rw [hcmdErr, hcause]; exact h.cause_none,
        by rw [hcmdErr, hcause, hf]; exact h.cause_recorded, fun ht => hf ▸ h.ovf_recorded (hovf ht)⟩
  | refused c hst hf =>
    constructor
    case cause_none =>
      rw [hst]
      intro hc
      cases hc
    case cause_recorded =>
      rw [hst, hf]
      intro _
      cases hc : s.status.cmdErr with
      | false => exact ⟨_, List.mem_cons_self, c, rfl, by simp [Status.refusing, hc]⟩
      | true =>
        obtain ⟨r, hr, d, hd, hcause⟩ := h.cause_recorded hc
        exact ⟨r, List.mem_cons_of_mem _ hr, d, hd, by simpa [Status.refusing, hc] using hcause⟩
    case ovf_recorded =>
      rw [hst, hf]
      intro hovf
      obtain ⟨r, hr, hfault⟩ := h.ovf_recorded hovf
      exact ⟨r, List.mem_cons_of_mem _ hr, hfault⟩
  | overflow hst hf =>
    constructor
    case cause_none => rw [hst]; exact h.cause_none
    case cause_recorded =>
      rw [hst, hf]
      intro hc
      obtain ⟨r, hr, hrest⟩ := h.cause_recorded hc
      exact ⟨r, List.mem_cons_of_mem _ hr, hrest⟩
    case ovf_recorded => rw [hf]; exact fun _ => ⟨_, List.mem_cons_self, rfl⟩

/-- No error is shown where STATUS has its reset value. -/
theorem State.errorsOk_of_reset {s : State} (h : s.status = Status.reset) : s.ErrorsOk := by
  constructor
  case cause_none => rw [h]; exact fun _ => rfl
  case cause_recorded => rw [h]; intro hc; cases hc
  case ovf_recorded => rw [h]; intro hc; cases hc

/-- Settles O49: block reset clears every error of STATUS, a host access keeps the invariant, and the
controller touches neither STATUS nor the record. -/
theorem everyStepKeepsTheErrors : Obligations.EveryStepKeepsTheErrors := by
  intro s t hok h
  rcases step_inv h with ⟨_, rfl⟩ | ⟨_, u, hu, rfl⟩
  · obtain ⟨log, e, _⟩ := s.resetEdge_eq s.hostCycle.bus
    exact State.errorsOk_of_reset (by rw [e]; rfl)
  · exact (hok.access (State.busAccess_errors hu)).congr (s.finishEdge_status u) (s.finishEdge_faults u)

/-! ## The reset state -/

/-- The parameters that this spec fixes are in their ranges, whatever UNIT_CYCLES is (00_scope.md R9, R10). -/
theorem Param.ofConfig_legal : Param.ofConfig.Legal := by
  constructor
  case wmax_pos => decide
  case unit_pos =>
    have hlt := Config.unitCyclesLessOne.isLt
    change 1 ≤ (BitVec.ofNat 16 (Config.unitCyclesLessOne.val + 1)).toNat
    rw [BitVec.toNat_ofNat, Nat.mod_eq_of_lt (by omega)]
    omega

/-- Settles O46: the reset state is a block reset with the parameters that this spec fixes. -/
theorem resetMeetsTheInvariants : Obligations.ResetMeetsTheInvariants :=
  ⟨State.blockReset_linkOk State.reset, Analyzer.fresh_ok _ _ (Nat.le_refl _), State.errorsOk_of_reset rfl,
    Param.ofConfig_legal⟩

/-! ## Register words -/

theorem toNat_setWidth_word {k : Nat} (f : BitVec k) (hk : k ≤ 32) : (f.setWidth 32).toNat = f.toNat :=
  BitVec.toNat_setWidth_of_le hk

/-- A field of `k` bits at place `n`, above a word of `n` bits, adds its value times `2 ^ n`. -/
theorem toNat_or_field {x : Word} {m n k : Nat} (hx : x.toNat = m) (hm : m < 2 ^ n) (f : BitVec k)
    (hk : n + k ≤ 32) : (x ||| f.setWidth 32 <<< n).toNat = m + 2 ^ n * f.toNat := by
  have hfit : f.toNat * 2 ^ n < 2 ^ 32 := calc
    f.toNat * 2 ^ n < 2 ^ k * 2 ^ n := Nat.mul_lt_mul_of_pos_right f.isLt (Nat.two_pow_pos n)
    _ = 2 ^ (n + k) := by rw [Nat.mul_comm, Nat.pow_add]
    _ ≤ 2 ^ 32 := Nat.pow_le_pow_right (by norm_num) hk
  rw [BitVec.toNat_or, BitVec.toNat_shiftLeft, Nat.shiftLeft_eq, toNat_setWidth_word f (by omega),
    Nat.mod_eq_of_lt hfit, hx, Nat.or_comm, Nat.mul_comm, ← Nat.two_pow_add_eq_or_of_lt hm, Nat.add_comm]

theorem toNat_or_bitAt {x : Word} {m n : Nat} (hx : x.toNat = m) (hm : m < 2 ^ n) (hn : n < 32)
    (b : Bool) : (x ||| bitAt b n).toNat = m + 2 ^ n * b.toNat := by
  rw [bitAt, toNat_or_field hx hm (BitVec.ofBool b) hn, BitVec.toNat_ofBool]

theorem bitAt_zero_toNat (b : Bool) : (bitAt b 0).toNat = b.toNat := by
  cases b <;> rfl

/-- STATUS as the sum of its fields (10_state.md R31). -/
theorem statusWord_toNat (s : State) :
    (statusWord s).toNat = s.busy.toNat + 2 * (modeCode s.ctl.mode).toNat +
      16 * s.status.cmdErr.toNat + 32 * s.status.ovf.toNat + 256 * s.status.cause.toNat := by
  have hbusy := Bool.toNat_le s.busy
  have hcmdErr := Bool.toNat_le s.status.cmdErr
  have hovf := Bool.toNat_le s.status.ovf
  have hmode := (modeCode s.ctl.mode).isLt
  have busy : ((BitVec.ofBool s.busy).setWidth 32).toNat = s.busy.toNat := by
    rw [toNat_setWidth_word _ (by norm_num), BitVec.toNat_ofBool]
  have mode := toNat_or_field busy (n := 1) (by omega) (modeCode s.ctl.mode) (by norm_num)
  have cmdErr := toNat_or_bitAt mode (n := 4) (by omega) (by norm_num) s.status.cmdErr
  have ovf := toNat_or_bitAt cmdErr (n := 5) (by omega) (by norm_num) s.status.ovf
  exact toNat_or_field ovf (n := 8) (by omega) s.status.cause (by norm_num)

/-- LINES as the sum of its bits (10_state.md R36). -/
theorem linesWord_toNat (s : State) :
    (linesWord s).toNat = s.lines.busClock.toNat + 2 * s.lines.bitClock.toNat +
      4 * s.lines.latch.toNat + 8 * s.lines.dataOut.toNat + 16 * s.lines.reset.toNat +
      32 * s.lines.readEnable.toNat + 64 * s.lines.readAck.toNat + 128 * s.dataInSync.toNat := by
  have hBusClock := Bool.toNat_le s.lines.busClock
  have hBitClock := Bool.toNat_le s.lines.bitClock
  have hLatch := Bool.toNat_le s.lines.latch
  have hDataOut := Bool.toNat_le s.lines.dataOut
  have hReset := Bool.toNat_le s.lines.reset
  have hReadEnable := Bool.toNat_le s.lines.readEnable
  have hReadAck := Bool.toNat_le s.lines.readAck
  have bitClock := toNat_or_bitAt (bitAt_zero_toNat s.lines.busClock) (n := 1) (by omega)
    (by norm_num) s.lines.bitClock
  have latch := toNat_or_bitAt bitClock (n := 2) (by omega) (by norm_num) s.lines.latch
  have dataOut := toNat_or_bitAt latch (n := 3) (by omega) (by norm_num) s.lines.dataOut
  have reset := toNat_or_bitAt dataOut (n := 4) (by omega) (by norm_num) s.lines.reset
  have readEnable := toNat_or_bitAt reset (n := 5) (by omega) (by norm_num) s.lines.readEnable
  have readAck := toNat_or_bitAt readEnable (n := 6) (by omega) (by norm_num) s.lines.readAck
  exact toNat_or_bitAt readAck (n := 7) (by omega) (by norm_num) s.dataInSync

/-- PARAM as the sum of its fields (10_state.md R35). -/
theorem paramWord_toNat (p : Param) :
    (paramWord p).toNat =
      p.wmax.toNat + 256 * p.syncStages.toNat + 65536 * p.unitCycles.toNat := by
  have hwmax := p.wmax.isLt
  have hstages := p.syncStages.isLt
  have stages := toNat_or_field (toNat_setWidth_word p.wmax (by norm_num)) (n := 8) (by omega)
    p.syncStages (by norm_num)
  exact toNat_or_field stages (n := 16) (by omega) p.unitCycles (by norm_num)

/-- Settles O11: each register word is the sum of its fields. -/
theorem statusLinesParamWords : Obligations.StatusLinesParamWords := by
  intro s
  refine ⟨?_, linesWord_toNat s, paramWord_toNat s.param, ?_, rfl, ?_⟩
  · refine (statusWord_toNat s).trans ?_
    cases hm : s.ctl.mode <;> simp [State.busy, hm, modeCode]
  · exact BitVec.toNat_setWidth_of_le (by norm_num)
  · exact BitVec.toNat_setWidth_of_le (by norm_num)

/-! ## Writes read back -/

theorem State.readReg_hold (s : State) (r : HoldReg) :
    (s.readReg (.hold r)).toNat = (s.holds.get r).toNat :=
  BitVec.toNat_setWidth_of_le (by norm_num)

/-- Settles O13: in IDLE the write is stored, and the read is of the same register. -/
theorem writtenRegistersReadBack : Obligations.WrittenRegistersReadBack := by
  intro s t a v hb h
  have guarded : ∀ u, s.guardedWrite u = u := fun u => if_neg (by simp [hb])
  change s.writeReg (regAt a) v = .next t at h
  unfold State.read
  refine ⟨fun ha => ?_, fun r ha => ?_⟩
  · simp only [List.mem_cons, List.not_mem_nil, or_false] at ha
    rcases ha with ha | ha | ha <;> rw [ha] at h ⊢ <;> rw [next_inj h, guarded] <;> rfl
  · rw [ha] at h ⊢
    rw [next_inj h, guarded, State.readReg_hold]
    simp

/-! ## Inside a hold -/

theorem Lines.changes_self (l : Lines) : l.changes l = [] := by
  simp [Lines.changes]

/-- Settles O32: with no access the edge is the hold's alone, and no line changes. -/
theorem holdCountsDown : Obligations.HoldCountsDown := by
  intro s hb hold hcycle
  refine ⟨s.ctl.holdCnt - 1, by bv_omega, ?_⟩
  have hstep : step s = .next (s.finishEdge s) := by
    simp [step, State.clockEdge, hcycle, State.runEdge, State.busAccess]
  have hadv : s.advance = { s with ctl := { s.ctl with holdCnt := s.ctl.holdCnt - 1 } } := by
    rw [State.advance, if_neg (by omega)]
  rw [hstep, State.finishEdge, if_pos hb, hadv]
  simp only [State.shiftSync, State.recordLines, Lines.changes_self]
  rfl

end Sys2Proof.Machine
end

section
/-! PROOF. The register space: which register an address reaches, what it reads as, and what a host access
does there and at the edge that ends its cycle (20_memory.md R51 to R58). -/

namespace Sys2Proof.Machine

/-! ## The register map -/

/-- Between LINES and the hold registers nothing is mapped (20_memory.md R52). -/
theorem regAtIndex_gap {n : Nat} (hlo : 11 ≤ n) (hhi : n < 16) : regAtIndex n = .unmapped := by
  interval_cases n <;> rfl

/-- Beyond the hold registers there are the two counter windows and nothing else (20_memory.md R52). -/
theorem regAtIndex_of_ge {n : Nat} (h : 29 ≤ n) :
    regAtIndex n =
      if 64 ≤ n ∧ n < 96 then .perbit (n - 64)
      else if 512 ≤ n ∧ n < 1536 then .hist ((n - 512) / 32) ((n - 512) % 32)
      else .unmapped := by
  rw [regAtIndex, if_neg (by omega)] <;> omega

/-- The register at an offset written as a number (20_memory.md R54). -/
theorem regAt_ofNat {n : Nat} (h : n < 2 ^ 13) : regAt (BitVec.ofNat 13 n) = regAtIndex (n / 4) := by
  rw [regAt, BitVec.toNat_ofNat, Nat.mod_eq_of_lt h]

theorem regAt_perbit {p : Nat} (hp : p < 32) : regAt (BitVec.ofNat 13 (0x100 + 4 * p)) = .perbit p := by
  rw [regAt_ofNat (by omega), regAtIndex_of_ge (by omega), if_pos (by omega),
    Reg.perbit.injEq]
  omega

theorem regAt_hist {k p : Nat} (hk : k < 32) (hp : p < 32) :
    regAt (BitVec.ofNat 13 (0x800 + 0x80 * k + 4 * p)) = .hist k p := by
  rw [regAt_ofNat (by omega), regAtIndex_of_ge (by omega), if_neg (by omega), if_pos (by omega),
    Reg.hist.injEq]
  omega

theorem regAt_unmapped {a : Addr}
    (h : (0x02C ≤ a.toNat ∧ a.toNat < 0x040) ∨ (0x074 ≤ a.toNat ∧ a.toNat < 0x100) ∨
      (0x180 ≤ a.toNat ∧ a.toNat < 0x800) ∨ 0x1800 ≤ a.toNat) : regAt a = .unmapped := by
  unfold regAt
  by_cases hgap : a.toNat < 0x040
  · exact regAtIndex_gap (by omega) (by omega)
  · rw [regAtIndex_of_ge (by omega), if_neg (by omega), if_neg (by omega)]

/-- Clearing an address's bits 1:0 keeps its word index (20_memory.md R54). -/
theorem regAt_and_lowBitsMask (a : Addr) : regAt (a &&& 0x1FFC) = regAt a := by
  have hword : (a &&& 0x1FFC).toNat / 4 = a.toNat / 4 := calc
    (a &&& 0x1FFC).toNat / 4 = a.toNat / 4 &&& (2 ^ 11 - 1) := Nat.and_div_two_pow (n := 2)
    _ = a.toNat / 4 % 2 ^ 11 := Nat.and_two_pow_sub_one_eq_mod _ _
    _ = a.toNat / 4 := Nat.mod_eq_of_lt (by have := a.isLt; omega)
  rw [regAt, hword, regAt]

/-- Settles O15: the single registers one by one, the windows and the gaps by the word index. -/
theorem registerMapByOffset : Obligations.RegisterMapByOffset := by
  refine ⟨rfl, rfl, rfl, rfl, rfl, rfl, rfl, rfl, rfl, rfl, rfl, rfl, rfl, rfl, rfl, rfl, rfl, rfl, rfl,
    rfl, rfl, rfl, rfl, rfl, fun p hp => regAt_perbit hp, fun k hk p hp => regAt_hist hk hp,
    fun a => ⟨?_, regAt_unmapped⟩⟩
  have ha := a.isLt
  rw [regAt_ofNat (by omega), Nat.mul_div_cancel_left _ (by norm_num), regAt]

/-! ## Reads -/

/-- Settles O10: each window's offset reaches its own counter, which reads 0 beyond WMAX. -/
theorem counterWindowsShowTheTables : Obligations.CounterWindowsShowTheTables := by
  intro s k p hk hp
  unfold State.read
  rw [regAt_perbit hp, regAt_hist hk hp]
  exact ⟨rfl, rfl⟩

/-- Settles O16: the offset reaches the register, and the register reads as its value. -/
theorem registersReadAtTheirOffsets : Obligations.RegistersReadAtTheirOffsets := by
  intro s
  have hold := s.readReg_hold
  refine ⟨rfl, rfl, rfl, rfl, rfl, hold .rstHi, hold .txStart, hold .txSettle, hold .latchHi,
    hold .latchLo, hold .bclkHi, hold .bclkLo, hold .txEnd, hold .rxStart, hold .rxSample, hold .ackHi,
    hold .ackLo, hold .rxEnd, fun a ha => ?_⟩
  rw [State.read, regAt_unmapped ha]
  rfl

/-- Settles O9: an access depends on its address through the register it reaches, and every access has a
next state. -/
theorem addressLowBitsAreIgnored : Obligations.AddressLowBitsAreIgnored := by
  intro s a v
  obtain ⟨t, ht⟩ := s.busAccess_next (.write a v)
  refine ⟨?_, t, ht, ?_⟩
  · rw [State.read, State.read, regAt_and_lowBitsMask]
  · rw [← ht, State.busAccess, State.busAccess, regAt_and_lowBitsMask]

/-! ## Writes -/

/-- The decoder reads a command back from its word (30_encoding.md R70, R77). -/
theorem decode_encode (i : Instr) : decode (encode i) = .ok i := by
  obtain ⟨hop, hwidth, hrsv⟩ := encode_fields i
  cases i <;> simp [decode, decodeWidth, hop, hwidth, hrsv, Instr.opcode, Instr.width]

/-- Every command's own check refuses it while another one runs (60_exceptions.md R153). -/
theorem exec_busy (i : Instr) {s : State} (hb : s.busy = true) :
    exec i s = .next (s.raiseCmdErr .busyCmd) := by
  cases i <;> exact if_pos hb

/-- The busy check of a CMD write is the one that the command makes again (log entry 19). -/
theorem State.issueCommand_of_decode {v : Word} {i : Instr} (hd : decode v = .ok i) (s : State) :
    s.issueCommand v = exec i s := by
  cases hb : s.busy with
  | true => rw [exec_busy i hb, State.issueCommand, if_pos hb]
  | false => simp [State.issueCommand, hb, hd]

@[simp] theorem State.guardedWrite_idle {s : State} (hb : s.busy = false) (u : State) :
    s.guardedWrite u = u :=
  if_neg (by simp [hb])

@[simp] theorem State.guardedWrite_busy {s : State} (hb : s.busy = true) (u : State) :
    s.guardedWrite u = s.refusedWith .busyWrite :=
  (if_pos hb).trans (s.raiseCmdErr_eq_refusedWith _)

/-- In IDLE a hold register stores bits 15:0 of what the host writes (10_state.md R33). -/
theorem State.writeReg_hold_idle {s : State} (hb : s.busy = false) (r : HoldReg) (v : Word) :
    s.writeReg (.hold r) v = .next { s with holds := s.holds.set r (v.extractLsb' 0 16) } := by
  rw [State.writeReg, State.guardedWrite_idle hb, BitVec.setWidth_eq_extractLsb' (by norm_num)]

/-- A write of a read-only or unmapped register does nothing (20_memory.md R56). -/
theorem State.writeReg_ignored {r : Reg} (hr : r.ignoresWrites = true) (v : Word) (s : State) :
    s.writeReg r v = .next s := by
  cases r with
  | cmd | status | txData | sampleRecv | sampleExp | hold => cases hr
  | _ => rfl

/-- The counter windows and the gaps around them ignore writes (20_memory.md R56, R57). -/
theorem regAtIndex_ignoresWrites {n : Nat} (h : 29 ≤ n) : (regAtIndex n).ignoresWrites = true := by
  rw [regAtIndex_of_ge h]
  split_ifs <;> rfl

/-- Settles O17: each offset reaches its register, and a write does what the register's kind does. -/
theorem writesReachTheirOffsets : Obligations.WritesReachTheirOffsets := by
  intro s v
  refine ⟨fun i => s.issueCommand_of_decode (decode_encode i), rfl, fun hb => ?idle, fun hb a ha => ?busy,
    fun a ha => ?ignored⟩
  case idle =>
    have data : ∀ u : State, (.next (s.guardedWrite u) : Host.Outcome State Fault Refusal) = .next u :=
      fun u => congrArg _ (State.guardedWrite_idle hb u)
    have hold := fun r => State.writeReg_hold_idle hb r v
    exact ⟨data _, data _, data _, hold .rstHi, hold .txStart, hold .txSettle, hold .latchHi,
      hold .latchLo, hold .bclkHi, hold .bclkLo, hold .txEnd, hold .rxStart, hold .rxSample, hold .ackHi,
      hold .ackLo, hold .rxEnd⟩
  case busy =>
    have refused : ∀ u : State, (.next (s.guardedWrite u) : Host.Outcome State Fault Refusal) =
        .next (s.refusedWith .busyWrite) := fun u => congrArg _ (State.guardedWrite_busy hb u)
    simp only [List.mem_cons, List.not_mem_nil, or_false] at ha
    rcases ha with rfl | rfl | rfl | rfl | rfl | rfl | rfl | rfl | rfl | rfl | rfl | rfl | rfl | rfl | rfl |
      rfl <;> exact refused _
  case ignored =>
    refine s.writeReg_ignored ?_ v
    rcases ha with ha | ⟨hlo, hhi⟩ | ⟨hlo, _⟩
    · simp only [List.mem_cons, List.not_mem_nil, or_false] at ha
      rcases ha with rfl | rfl | rfl | rfl | rfl | rfl <;> rfl
    · rw [regAt, regAtIndex_gap (by omega) (by omega)]
      rfl
    · exact regAtIndex_ignoresWrites (by omega)

/-! ## The edge that ends the cycle -/

/-- An edge without block reset, from the outcome of the host's access (70_reset_and_hazards.md R190). -/
theorem step_of_busAccess {s t : State} {op : BusOp} (hcycle : s.hostCycle = { rst := false, bus := op })
    (h : s.busAccess op = .next t) : step s = .next (s.finishEdge t) := by
  simp [step, State.clockEdge, hcycle, State.runEdge, h]

/-- Settles O5: the host's access goes through `busAccess`, and `finishEdge` is the rest of the edge. -/
theorem stepRunsTheDecodedCommand : Obligations.StepRunsTheDecodedCommand := by
  intro s op hcycle
  refine ⟨?step, fun hop => hop ▸ rfl, fun i a v hop ha hd => ?command⟩
  case step =>
    obtain ⟨t, ht⟩ := s.busAccess_next op
    exact ⟨t, ht, step_of_busAccess hcycle ht, rfl⟩
  case command =>
    rw [hop, State.busAccess, ha]
    exact s.issueCommand_of_decode hd

/-- The event of a running command, whatever the host's coming cycles are. -/
theorem State.fire_withHost (s : State) (host : List HostCycle) :
    State.fire { s with host := host } = { s.fire with host := host } := by
  have hprogram : State.program { s with host := host } = s.program := rfl
  unfold State.fire
  rw [hprogram]
  cases s.program[s.ctl.evt]? with
  | none => rfl
  | some e => cases e with | mk a w => cases a <;> rfl

/-- The host's coming cycles decide nothing of what an edge does to a running command. -/
theorem State.advance_withHost (s : State) (host : List HostCycle) :
    State.advance { s with host := host } = { s.advance with host := host } := by
  unfold State.advance
  split
  · exact s.fire_withHost host
  · rfl

/-- What the edge makes of the host's cycles is that the first is over. -/
theorem State.finishEdge_withHost (s t : State) (host : List HostCycle) :
    s.finishEdge { t with host := host } = { s.finishEdge t with host := host.tail } := by
  unfold State.finishEdge
  split
  · rw [State.advance_withHost]
    rfl
  · rfl

/-- One entry more in the record of reads, the model's own (log entry 6). -/
def State.addRead (r : ReadRecord) (s : State) : State :=
  { s with log := { s.log with reads := r :: s.log.reads } }

theorem State.recordRead_eq_addRead (a : Addr) (s : State) :
    s.recordRead a = s.addRead ⟨s.log.edge, a, s.read a⟩ := rfl

/-- The controller neither reads nor writes the record of reads. -/
theorem State.advance_addRead (r : ReadRecord) (s : State) :
    (s.addRead r).advance = s.advance.addRead r := by
  have same := s.advance_same
  refine (s.advance_withStatusLog s.status s.log.faults (r :: s.log.reads)).trans ?_
  rw [← same.status, ← same.faults, ← same.reads]
  rfl

/-- An edge keeps the entry that a read made, and depends on it nowhere else (20_memory.md R58). -/
theorem State.finishEdge_addRead (r : ReadRecord) (s t : State) :
    s.finishEdge (t.addRead r) = (s.finishEdge t).addRead r := by
  unfold State.finishEdge
  split
  · rw [State.advance_addRead]
    rfl
  · rfl

/-- Settles O8: the two cycles differ in the access alone, and the rest of the edge keeps the entry of
the read as the only difference. -/
theorem readsHaveNoSideEffect : Obligations.ReadsHaveNoSideEffect := by
  intro s a hcycle
  have hread : step s = .next (s.finishEdge (s.recordRead a)) := step_of_busAccess hcycle rfl
  have hsame : s.finishEdge { s with host := { rst := false, bus := .none } :: s.host.tail } =
      s.finishEdge s := by
    rw [State.finishEdge_withHost, List.tail_cons, ← s.finishEdge_host s]
  have hquiet : step { s with host := { rst := false, bus := .none } :: s.host.tail } =
      .next (s.finishEdge s) := (step_of_busAccess rfl rfl).trans (congrArg _ hsame)
  refine ⟨_, hquiet, ?_⟩
  rw [hread, State.recordRead_eq_addRead, State.finishEdge_addRead]
  rfl

end Sys2Proof.Machine
end

section
/-! PROOF. Command words and the checks of a CMD write (30_encoding.md R70 to R80). -/

namespace Sys2Proof

/-! ## The decoder, answer by answer -/

/-- Only RESET has opcode 1, and it has no width (30_encoding.md R72, R74). -/
theorem width_eq_zero_of_opcode {i : Instr} (h : i.opcode.toNat = 1) : i.width = 0 := by
  cases i with
  | reset => rfl
  | _ => cases h

theorem opcode_mem (i : Instr) : i.opcode.toNat ∈ [1, 2, 3, 4, 5] := by
  cases i <;> simp [Instr.opcode]

theorem decode_of_reservedOp {v : Word} (hop : (opField v).toNat ∉ [1, 2, 3, 4, 5]) :
    decode v = .error .badOp := by
  rcases decode_cases v with ⟨_, hd⟩ | ⟨hmem, _, _⟩ | ⟨_, i, hi, _, _⟩
  · exact hd
  · exact absurd hmem hop
  · exact absurd (hi ▸ opcode_mem i) hop

theorem decode_of_reservedBits {v : Word} (hop : (opField v).toNat ∈ [1, 2, 3, 4, 5])
    (hbits : rsvField v ≠ 0 ∨ ((opField v).toNat = 1 ∧ widthField v ≠ 0)) :
    decode v = .error .rsvBits := by
  rcases decode_cases v with ⟨hnot, _⟩ | ⟨_, _, hd⟩ | ⟨hrsv, i, hi, hw, _⟩
  · exact absurd hop hnot
  · exact hd
  · rcases hbits with hne | ⟨hone, hne⟩
    · exact absurd hrsv hne
    · exact absurd (hw ▸ width_eq_zero_of_opcode (hi ▸ hone)) hne

theorem exists_decode_of_fields {v : Word} (hop : (opField v).toNat ∈ [1, 2, 3, 4, 5])
    (hrsv : rsvField v = 0) (hreset : (opField v).toNat = 1 → widthField v = 0) :
    ∃ i : Instr, i.opcode = opField v ∧ i.width = widthField v ∧ decode v = .ok i := by
  rcases decode_cases v with ⟨hnot, _⟩ | ⟨_, hbits, _⟩ | ⟨_, hok⟩
  · exact absurd hop hnot
  · rcases hbits with hne | ⟨hone, hne⟩
    · exact absurd hrsv hne
    · exact absurd (hreset hone) hne
  · exact hok

end Sys2Proof

namespace Sys2Proof.Machine

/-! ## The round trip -/

/-- Settles O3: an accepted word has its command's three fields, and so is its encoding. -/
theorem decodeAcceptsExactlyTheEncodings : Obligations.DecodeAcceptsExactlyTheEncodings :=
  fun _ i => ⟨eq_encode_of_decode, fun hv => hv ▸ decode_encode i⟩

/-- Settles O1: each word of the table is the encoding of its command. -/
theorem tableWordsDecode : Obligations.TableWordsDecode :=
  have decodes : ∀ {v : Word} {i : Instr}, v = encode i → decode v = .ok i :=
    fun {v i} => (decodeAcceptsExactlyTheEncodings v i).mpr
  ⟨decodes rfl, decodes rfl, decodes rfl, decodes rfl, decodes rfl, decodes rfl, decodes rfl, decodes rfl,
    decodes rfl, decodes rfl, decodes rfl⟩

/-- WIDTH stands above the four bits of OP (30_encoding.md R80). -/
theorem encode_toNat (i : Instr) : (encode i).toNat = 16 * i.width.toNat + i.opcode.toNat := by
  have hop : (i.opcode.setWidth 32).toNat = i.opcode.toNat := toNat_setWidth_word i.opcode (by norm_num)
  rw [encode, BitVec.or_comm, toNat_or_field hop i.opcode.isLt i.width (by norm_num)]
  omega

/-- Settles O2: the command's word by its width and opcode. -/
theorem commandWordIsWidthAndOpcode : Obligations.CommandWordIsWidthAndOpcode :=
  ⟨encode_toNat .reset, fun w => ⟨encode_toNat (.send w), encode_toNat (.receive w),
    encode_toNat (.record w), encode_toNat (.clear w)⟩⟩

/-! ## The width's range -/

/-- The largest width a command may have in a state; RESET's is always 0 (30_encoding.md R72, R76). -/
def State.widthBound (s : State) : Instr → Width
  | .reset => 0
  | .record _ => s.ana.aw
  | .send _ | .receive _ | .clear _ => s.param.wmax

theorem State.widthBound_eq_wmax (s : State) {i : Instr} (h : i.opcode.toNat ∈ [2, 3, 5]) :
    s.widthBound i = s.param.wmax := by
  cases i with
  | reset | record => simp [Instr.opcode] at h
  | send | receive | clear => rfl

theorem State.widthBound_eq_aw (s : State) {i : Instr} (h : i.opcode.toNat = 4) :
    s.widthBound i = s.ana.aw := by
  cases i with
  | record => rfl
  | _ => cases h

theorem State.accept_outOfRange {s : State} (hb : s.busy = false) {p : Prop} [Decidable p] (hp : ¬ p)
    (run : State → State) : s.accept (decide p) run = .next (s.refusedWith .badWidth) := by
  simp [State.accept, hb, hp, s.raiseCmdErr_eq_refusedWith]

/-- In IDLE a command whose width is too large is refused with cause 4 (30_encoding.md R77). -/
theorem exec_widthTooLarge {i : Instr} {s : State} (hb : s.busy = false) (hw : s.widthBound i < i.width) :
    exec i s = .next (s.refusedWith .badWidth) := by
  cases i with
  | reset => exact absurd hw BitVec.not_lt_zero
  | _ => exact State.accept_outOfRange hb (BitVec.not_le.mpr hw) _

/-- Settles O27: the bound is WMAX, and AW for RECORD. -/
theorem widthsOutOfRangeAreRefused : Obligations.WidthsOutOfRangeAreRefused :=
  fun _ w hb =>
    ⟨fun hw => ⟨exec_widthTooLarge (i := .send w) hb hw, exec_widthTooLarge (i := .receive w) hb hw,
      exec_widthTooLarge (i := .clear w) hb hw⟩, exec_widthTooLarge (i := .record w) hb⟩

/-! ## A write to CMD -/

theorem State.busAccess_cmd {a : Addr} (ha : regAt a = .cmd) (v : Word) (s : State) :
    s.busAccess (.write a v) = s.issueCommand v := by
  rw [State.busAccess, ha, State.writeReg]

theorem State.issueCommand_busy {s : State} (hb : s.busy = true) (v : Word) :
    s.issueCommand v = .next (s.refusedWith .busyCmd) := by
  rw [State.issueCommand, if_pos hb, s.raiseCmdErr_eq_refusedWith]

theorem State.issueCommand_of_error {s : State} (hb : s.busy = false) {v : Word} {e : DecodeError}
    (hd : decode v = .error e) : s.issueCommand v = .next (s.refusedWith (decodeCause e)) := by
  simp [State.issueCommand, hb, hd, s.raiseCmdErr_eq_refusedWith]

/-- Settles O4: STATE is checked first, the decoder makes the checks of the word, and the command that it
answers makes the check of its width. -/
theorem commandWriteIsJudgedInOrder : Obligations.CommandWriteIsJudgedInOrder := by
  intro s a v ha
  rw [s.busAccess_cmd ha]
  refine ⟨fun hm => State.issueCommand_busy (State.busy_iff.mpr hm) v, fun hm => ?idle⟩
  have hb : s.busy = false := State.not_busy_iff.mpr hm
  refine ⟨fun hop => State.issueCommand_of_error hb (decode_of_reservedOp hop), fun hop =>
    ⟨fun hbits => State.issueCommand_of_error hb (decode_of_reservedBits hop hbits), fun hrsv hreset => ?_⟩⟩
  obtain ⟨i, hi, hwidth, hd⟩ := exists_decode_of_fields hop hrsv hreset
  have hopcode : i.opcode.toNat = (opField v).toNat := congrArg BitVec.toNat hi
  have tooLarge : s.widthBound i < widthField v → s.issueCommand v = .next (s.refusedWith .badWidth) :=
    fun hw => (s.issueCommand_of_decode hd).trans (exec_widthTooLarge hb (hwidth ▸ hw))
  refine ⟨fun hmem hw => ?link, fun hfour hw => ?record, fun _ _ =>
    ⟨i, hopcode, hwidth, s.issueCommand_of_decode hd⟩⟩
  case link => exact tooLarge (s.widthBound_eq_wmax (hopcode ▸ hmem) ▸ hw)
  case record => exact tooLarge (s.widthBound_eq_aw (hopcode.trans hfour) ▸ hw)

end Sys2Proof.Machine
end

section
/-! PROOF. Single edges of the link commands: acceptance, what a command's acceptance leaves readable as it
was, the frame of an edge of a running command, and the line properties of R105 and R112 (40_link.md). -/

namespace Sys2Proof.Machine

/-! ## Acceptance -/

/-- Settles O20: the acceptance check lets RESET through, and its event E0 happens. -/
theorem resetIsAcceptedInIdle : Obligations.ResetIsAcceptedInIdle := by
  intro s hb
  obtain ⟨hreset, _, _⟩ := exec_link_accepted s hb
  exact hreset.trans (congrArg _ s.start_reset)

/-- Settles O21: the acceptance check lets SEND through, and its event E0 happens. -/
theorem sendIsAcceptedInIdle : Obligations.SendIsAcceptedInIdle := by
  intro s w hb hw
  obtain ⟨_, hsend, _⟩ := exec_link_accepted s hb
  exact (hsend w hw).trans (congrArg _ (s.start_send w))

/-- Settles O22: the acceptance check lets RECEIVE through, and its event E0 happens. -/
theorem receiveIsAcceptedInIdle : Obligations.ReceiveIsAcceptedInIdle := by
  intro s w hb hw
  obtain ⟨_, _, hreceive⟩ := exec_link_accepted s hb
  exact (hreceive w hw).trans (congrArg _ (s.start_receive w))

/-! ## The register space at acceptance -/

/-- A refusal shows in STATUS alone. -/
theorem State.readReg_raiseCmdErr (c : Cause) (s : State) {r : Reg} (hr : r ≠ .status) :
    (s.raiseCmdErr c).readReg r = s.readReg r := by
  cases r with
  | status => exact absurd rfl hr
  | _ => rfl

/-- An overflow shows in STATUS alone. -/
theorem State.readReg_raiseOvf (s : State) {r : Reg} (hr : r ≠ .status) :
    s.raiseOvf.readReg r = s.readReg r := by
  cases r with
  | status => exact absurd rfl hr
  | _ => rfl

/-- The controller's registers and the lines show in STATUS and LINES alone (10_state.md R31, R36). -/
theorem State.readReg_withCtlLines (s : State) (c : Ctl) (l : Lines) {r : Reg} (hs : r ≠ .status)
    (hl : r ≠ .lines) : State.readReg { s with ctl := c, lines := l } r = s.readReg r := by
  cases r with
  | status => exact absurd rfl hs
  | lines => exact absurd rfl hl
  | _ => rfl

/-- A session's start shows in the analyzer's registers alone (41_analyzer.md R132). -/
theorem State.readReg_startSession (w : Width) (s : State) {r : Reg}
    (h : changesAtAcceptance (.clear w) r = false) : (s.startSession w).readReg r = s.readReg r := by
  cases r with
  | perbit | hist | lastMask | lastCount | anaWidth => cases h
  | _ => rfl

/-- A RECORD shows in STATUS, in the counters and in the LAST registers alone (41_analyzer.md R121). -/
theorem State.readReg_recordSample (w : Width) (s : State) {r : Reg} (hs : r ≠ .status)
    (h : changesAtAcceptance (.record w) r = false) : (s.recordSample w).readReg r = s.readReg r := by
  rcases s.recordSample_cases w with ⟨_, e⟩ | ⟨_, e⟩
  · rw [e, s.readReg_raiseOvf hs]
  · rw [e]
    cases r with
    | perbit | hist | lastMask | lastCount => cases h
    | _ => rfl

/-- What an accepted run leaves readable, its refusals leave too. -/
theorem State.readReg_accept {ok : Bool} {s t : State} {run : State → State} {r : Reg}
    (h : s.accept ok run = .next t) (hs : r ≠ .status) (hrun : (run s).readReg r = s.readReg r) :
    t.readReg r = s.readReg r := by
  rcases s.accept_cases ok run with ⟨_, e⟩ | ⟨_, _, e⟩ | ⟨_, _, e⟩
  · exact next_inj (e.symm.trans h) ▸ s.readReg_raiseCmdErr _ hs
  · exact next_inj (e.symm.trans h) ▸ hrun
  · exact next_inj (e.symm.trans h) ▸ s.readReg_raiseCmdErr _ hs

/-- A command changes at its acceptance only the reads of STATUS and of what its rule names. -/
theorem exec_readReg {i : Instr} {s t : State} (h : exec i s = .next t) {r : Reg} (hs : r ≠ .status)
    (hr : changesAtAcceptance i r = false) : t.readReg r = s.readReg r := by
  cases i with
  | reset =>
    have hl : r ≠ .lines := fun e => by simp [e, changesAtAcceptance] at hr
    exact State.readReg_accept h hs (s.readReg_withCtlLines _ _ hs hl)
  | send w =>
    have hl : r ≠ .lines := fun e => by simp [e, changesAtAcceptance] at hr
    exact State.readReg_accept h hs (s.readReg_withCtlLines _ _ hs hl)
  | receive w =>
    have hl : r ≠ .lines := fun e => by simp [e, changesAtAcceptance] at hr
    exact State.readReg_accept h hs (s.readReg_withCtlLines _ _ hs hl)
  | record w => exact State.readReg_accept h hs (s.readReg_recordSample w hs hr)
  | clear w => exact State.readReg_accept h hs (s.readReg_startSession w hr)

/-- Settles O28: a byte of the register space is a byte of its register's word. -/
theorem commandsLeaveOtherRegistersAlone : Obligations.CommandsLeaveOtherRegistersAlone := by
  intro i s t h a hs hr
  rw [State.readByte, State.read, exec_readReg h hs hr, State.readByte, State.read]

/-! ## An edge of a running command -/

/-- The frame of an edge in the controller, and what RXDATA can become (40_link.md R115). -/
theorem State.advance_frame (s : State) :
    s.advance.ctl.txShift = s.ctl.txShift ∧ s.advance.ctl.curW = s.ctl.curW ∧
    (s.advance.rxData = s.rxData ∨ (s.ctl.mode = .receiving ∧ s.advance.ctl.mode = .idle ∧
      s.advance.rxData = s.ctl.rxShift)) := by
  rcases s.advance_cases with ⟨_, e⟩ | ⟨_, ev, _, e⟩ | ⟨_, _, e⟩ <;> rw [e]
  · exact ⟨rfl, rfl, .inl rfl⟩
  · exact ⟨s.perform_txShift ev.act, s.perform_curW ev.act, .inl (s.perform_rxData ev.act)⟩
  · refine ⟨rfl, rfl, ?_⟩
    rw [State.complete_rxData]
    split
    · exact .inr ⟨‹_›, rfl, rfl⟩
    · exact .inl rfl

@[simp] theorem State.finishEdge_reads (s t : State) : (s.finishEdge t).log.reads = t.log.reads :=
  (s.controllerEdge_same t).reads

/-- Only a host write touches STATUS and the fault record. -/
theorem State.busAccess_errors_of_no_write {op : BusOp} {s t : State} (h : s.busAccess op = .next t)
    (hop : ∀ x v, op ≠ .write x v) : t.status = s.status ∧ t.log.faults = s.log.faults := by
  cases op with
  | none => exact next_inj h ▸ ⟨rfl, rfl⟩
  | read a => exact next_inj h ▸ ⟨rfl, rfl⟩
  | write a v => exact absurd rfl (hop a v)

/-- Settles O34: the controller's edge writes none of these, and the host's access is refused them. -/
theorem runningCommandKeepsTheRest : Obligations.RunningCommandKeepsTheRest := by
  intro s hb hr
  obtain ⟨a, ha⟩ := s.busAccess_next s.hostCycle.bus
  have hs : step s = .next (s.finishEdge a) := by
    rcases step_cases s with ⟨hr', _⟩ | ⟨_, b, hb', e⟩
    · simp [hr] at hr'
    · rw [e, next_inj (ha.symm.trans hb')]
  obtain ⟨t, e, ht⟩ := step_busy hb hr
  obtain rfl := next_inj (hs.symm.trans e)
  obtain ⟨htx, hw, hrx⟩ := s.advance_frame
  rw [← ht.ctl] at htx hw
  rw [← ht.ctl, ← ht.rxData] at hrx
  refine ⟨_, a, hs, ha, ht.holds, ht.txData, ht.sampleRecv, ht.sampleExp, ht.ana, ht.param, htx, hw,
    s.finishEdge_status a, s.finishEdge_faults a, s.finishEdge_reads a, fun hop => ?_, hrx⟩
  rw [s.finishEdge_status, s.finishEdge_faults]
  exact State.busAccess_errors_of_no_write ha hop

/-- What no host access changes at its own edge, in any STATE. -/
structure State.AccessKeeps (s t : State) : Prop where
  rxData : t.rxData = s.rxData
  dataOut : t.lines.dataOut = s.lines.dataOut
  samples : t.log.samples = s.log.samples
  lineTrace : t.log.lineTrace = s.log.lineTrace

theorem State.busAccess_keeps {op : BusOp} {s t : State} (h : s.busAccess op = .next t) :
    s.AccessKeeps t := by
  cases hb : s.busy with
  | true =>
    obtain ⟨st, faults, reads, rfl⟩ := State.busAccess_busy hb h
    exact ⟨rfl, rfl, rfl, rfl⟩
  | false =>
    cases State.busAccess_idle hb h with
    | record w =>
      rcases s.recordSample_cases w with ⟨_, e⟩ | ⟨_, e⟩ <;> exact e ▸ ⟨rfl, rfl, rfl, rfl⟩
    | _ => exact ⟨rfl, rfl, rfl, rfl⟩

/-- Settles O52: in IDLE no access writes RXDATA, and of a running command only the completion does. -/
theorem rxDataChangesOnlyAtCompletion : Obligations.RxDataChangesOnlyAtCompletion := by
  intro s t h hne
  cases hr : s.hostCycle.rst with
  | true => exact .inl rfl
  | false =>
    cases hb : s.busy with
    | true =>
      obtain ⟨u, e, hu⟩ := step_busy hb hr
      obtain rfl := next_inj (e.symm.trans h)
      obtain ⟨_, _, hrx⟩ := s.advance_frame
      rw [← hu.ctl, ← hu.rxData] at hrx
      exact .inr (hrx.resolve_left hne)
    | false =>
      obtain ⟨u, hu, _, e⟩ := step_idle hb hr
      obtain rfl := next_inj (e.symm.trans h)
      exact absurd (State.busAccess_keeps hu).rxData hne

/-! ## The cycles that remain -/

theorem State.remaining_of_busy {s : State} (hb : s.busy = true) :
    s.remaining = max 1 s.ctl.holdCnt.toNat +
      ((s.program.drop s.ctl.evt).map fun e => s.waitLen e.wait).sum :=
  if_pos hb

theorem State.remaining_of_idle {s : State} (hb : s.busy = false) : s.remaining = 0 :=
  if_neg (by simp [hb])

theorem State.busy_of_remaining {s : State} (h : 0 < s.remaining) : s.busy = true := by
  by_contra hb
  rw [State.remaining_of_idle (by simpa using hb)] at h
  omega

/-- The cycles that remain depend on the controller, the hold registers and UNIT_CYCLES alone. -/
theorem State.remaining_congr {s t : State} (hc : t.ctl = s.ctl) (hh : t.holds = s.holds)
    (hp : t.param = s.param) : t.remaining = s.remaining := by
  have hbusy : t.busy = s.busy := by rw [State.busy, hc, State.busy]
  have hprog : t.program = s.program := by rw [State.program, hc, State.program]
  unfold State.remaining
  simp only [hbusy, hprog, hc, State.waitLen_congr hh hp]

/-- An edge in the controller uses up one of the cycles that remain, and with the last one the command
completes (40_link.md R92). -/
theorem State.advance_remaining {s : State} (hb : s.busy = true) :
    s.advance.remaining + 1 = s.remaining ∧
      s.advance.ctl.mode = if s.remaining = 1 then .idle else s.ctl.mode := by
  have hrem := State.remaining_of_busy hb
  rcases s.advance_cases with ⟨hold, e⟩ | ⟨hold, ev, hev, e⟩ | ⟨hold, hend, e⟩
  · have hcnt : (s.ctl.holdCnt - 1).toNat + 1 = s.ctl.holdCnt.toNat := by bv_omega
    have hnext : s.advance.remaining = max 1 (s.ctl.holdCnt - 1).toNat +
        ((s.program.drop s.ctl.evt).map fun e => s.waitLen e.wait).sum := by
      rw [e]
      exact State.remaining_of_busy hb
    rw [if_neg (by omega), hnext, e]
    exact ⟨by omega, rfl⟩
  · have hdrop : s.program.drop s.ctl.evt = ev :: s.program.drop (s.ctl.evt + 1) := by
      obtain ⟨hlt, rfl⟩ := List.getElem?_eq_some_iff.mp hev
      exact List.drop_eq_getElem_cons hlt
    have hbusy : (s.afterEvent ev).busy = true := by
      rw [State.busy_iff, State.afterEvent_mode]
      exact State.busy_iff.mp hb
    have hnext : s.advance.remaining = s.waitLen ev.wait +
        ((s.program.drop (s.ctl.evt + 1)).map fun e => s.waitLen e.wait).sum := by
      have hwait : ∀ w, (s.afterEvent ev).waitLen w = s.waitLen w := s.perform_waitLen ev.act
      have hcnt : (s.afterEvent ev).ctl.holdCnt.toNat = s.waitLen ev.wait :=
        (State.startHold_holdCnt_toNat _ _).trans (hwait _)
      have hpos := s.waitLen_pos ev.wait
      rw [e, ← State.afterEvent, State.remaining_of_busy hbusy, s.afterEvent_program,
        s.afterEvent_evt, hcnt]
      simp only [hwait, max_eq_right hpos]
    have hsum : s.remaining = 1 + (s.waitLen ev.wait +
        ((s.program.drop (s.ctl.evt + 1)).map fun e => s.waitLen e.wait).sum) := by
      rw [hrem, hdrop, List.map_cons, List.sum_cons, max_eq_left hold]
    have hpos := s.waitLen_pos ev.wait
    rw [if_neg (by omega), hnext, e]
    exact ⟨by omega, s.perform_mode ev.act⟩
  · rw [List.drop_eq_nil_of_le (List.getElem?_eq_none_iff.mp hend), max_eq_left hold] at hrem
    change s.remaining = 1 at hrem
    rw [if_pos hrem, hrem, e]
    exact ⟨congrArg (· + 1) (State.remaining_of_idle rfl), rfl⟩

/-- Settles O33: the host's access changes nothing that the cycles which remain depend on. -/
theorem everyEdgeBringsCompletionNearer : Obligations.EveryEdgeBringsCompletionNearer := by
  intro s hb hr
  obtain ⟨t, e, ht⟩ := step_busy hb hr
  have same := s.advance_same
  have hrem : t.remaining = s.advance.remaining :=
    State.remaining_congr ht.ctl (ht.holds.trans same.holds.symm) (ht.param.trans same.param.symm)
  refine ⟨t, e, ?_⟩
  rw [hrem, ht.ctl]
  exact State.advance_remaining hb

/-! ## The lines of SEND and the samples of RECEIVE -/

/-- What the event number `n` of a command's list can do (40_link.md R100, R103, R110). -/
inductive EventAction (w n : Nat) : Mode → Action → Prop where
  | drive (m : Mode) (l : Line) (b : Bool) (line : l ≠ .dataOut) : EventAction w n m (.drive l b)
  | txBit (i : Nat) (bit : i < w) (place : n = 5 * i + 1) : EventAction w n .sending (.txBit i)
  | sampleBit (i : Nat) (bit : i < w) (place : n = 3 * i + 1) :
      EventAction w n .receiving (.sampleBit i)
  | storeAndAck (i : Nat) (bit : i < w) (place : n = 3 * i + 2) :
      EventAction w n .receiving (.storeAndAck i)

theorem eventAction_of_mem {m : Mode} {w n : Nat} {e : Event} (he : (events m w)[n]? = some e) :
    EventAction w n m e.act := by
  cases m with
  | idle => simp [events] at he
  | resetting =>
    match n with
    | 0 | 1 => obtain rfl := Option.some.inj he; exact .drive _ _ _ (by decide)
    | n + 2 => simp [events, resetEvents] at he
  | sending =>
    rcases sendEvents_cases he with ⟨_, rfl⟩ | ⟨i, r, hi, _, hn, hs⟩ | ⟨_, rfl⟩
    · exact .drive _ _ _ (by decide)
    · match r with
      | 0 => obtain rfl := Option.some.inj hs; exact .txBit i hi hn
      | 1 | 2 | 3 | 4 => obtain rfl := Option.some.inj hs; exact .drive _ _ _ (by decide)
      | r + 5 => simp [sendSlot] at hs
    · exact .drive _ _ _ (by decide)
  | receiving =>
    rcases receiveEvents_cases he with ⟨_, rfl⟩ | ⟨i, r, hi, _, hn, hs⟩ | ⟨_, rfl⟩
    · exact .drive _ _ _ (by decide)
    · match r with
      | 0 => obtain rfl := Option.some.inj hs; exact .sampleBit i hi hn
      | 1 => obtain rfl := Option.some.inj hs; exact .storeAndAck i hi hn
      | 2 => obtain rfl := Option.some.inj hs; exact .drive _ _ _ (by decide)
      | r + 3 => simp [receiveSlot] at hs
    · exact .drive _ _ _ (by decide)

/-- The only event that changes DataOut is a bit of SEND, and its slot is between the pulses
(40_link.md R105). -/
theorem State.advance_dataOut {s : State} (h : s.advance.lines.dataOut ≠ s.lines.dataOut) :
    s.ctl.mode = .sending ∧ ∃ i < s.ctl.curW.toNat, s.ctl.evt = 5 * i + 1 ∧
      s.advance.lines = s.lines.set .dataOut (s.txBitAt i) := by
  rcases s.advance_cases with ⟨_, e⟩ | ⟨_, ev, hev, e⟩ | ⟨_, _, e⟩
  · exact absurd (congrArg (·.lines.dataOut) e) h
  · have hact := eventAction_of_mem hev
    rw [e, State.startHold_lines] at h ⊢
    generalize s.ctl.mode = m, ev.act = a at hact h ⊢
    cases hact with
    | drive _ l b hl => exact absurd (Lines.get_set s.lines l .dataOut b |>.trans (if_neg hl.symm)) h
    | txBit i hi hn => exact ⟨rfl, i, hi, hn, rfl⟩
    | sampleBit | storeAndAck => exact absurd rfl h
  · exact absurd (congrArg (·.lines.dataOut) e) h

/-- Where a pulse of SEND is up, BITIDX is the bit that DataOut shows. -/
theorem State.LinkOk.dataOut_at_pulse {s : State} (h : s.LinkOk)
    (hp : s.lines.latch = true ∨ s.lines.bitClock = true) :
    s.lines.busClock = true ∧ s.ctl.mode = .sending ∧
      s.lines.dataOut = s.ctl.txShift.getLsbD s.ctl.bitIdx.toNat := by
  cases hm : s.ctl.mode with
  | idle => rw [h.idle_lines hm] at hp; simp [Lines.low] at hp
  | resetting =>
    obtain ⟨_, hlatch, hbit, _⟩ := h.resetting_lines hm
    simp [hlatch, hbit] at hp
  | receiving =>
    obtain ⟨_, hlatch, hbit, _⟩ := h.receiving_lines hm
    simp [hlatch, hbit] at hp
  | sending =>
    obtain ⟨hbus, hlatch, hbit, _⟩ := h.sending_lines hm
    rw [hlatch, hbit, decide_eq_true_eq, decide_eq_true_eq] at hp
    refine ⟨hbus.trans (decide_eq_true (by omega)), rfl, ?_⟩
    rw [h.sending_dataOut hm (by omega) (by omega), h.bitIdx_sending hm (by omega) (by omega)]

/-- Latch and BitClock are pulses of different steps of a slot. -/
theorem State.LinkOk.pulses_apart {s : State} (h : s.LinkOk) :
    ¬(s.lines.latch = true ∧ s.lines.bitClock = true) := by
  rintro ⟨hl, hb⟩
  obtain ⟨_, hm, _⟩ := h.dataOut_at_pulse (.inl hl)
  obtain ⟨_, hlatch, hbit, _⟩ := h.sending_lines hm
  rw [hlatch, decide_eq_true_eq] at hl
  rw [hbit, decide_eq_true_eq] at hb
  omega

/-- Settles O44: the invariant fixes the lines, and DataOut changes only at the first step of a slot. -/
theorem sendLineProperties : Obligations.SendLineProperties := by
  intro s hok
  refine ⟨hok.pulses_apart, hok.dataOut_at_pulse, fun t h hr hne => ?_⟩
  cases hb : s.busy with
  | false =>
    obtain ⟨u, hu, _, e⟩ := step_idle hb hr
    obtain rfl := next_inj (e.symm.trans h)
    exact absurd (State.busAccess_keeps hu).dataOut hne
  | true =>
    obtain ⟨u, e, hu⟩ := step_busy hb hr
    obtain rfl := next_inj (e.symm.trans h)
    rw [hu.lines] at hne ⊢
    obtain ⟨hm, i, hi, hn, hlines⟩ := State.advance_dataOut hne
    have hbefore := hok.lines_before_sendStep hm (r := 0) (by omega) (by norm_num) hn
    rw [hlines, hbefore]
    exact ⟨rfl, rfl, rfl, rfl, rfl⟩

/-- The only event that samples is one of RECEIVE. -/
theorem State.advance_samples {s : State} (h : s.advance.log.samples ≠ s.log.samples) :
    s.ctl.mode = .receiving ∧ s.advance.ctl.mode = .receiving ∧ s.advance.lines = s.lines ∧
      s.advance.log.samples = ⟨s.log.edge, s.dataInSync⟩ :: s.log.samples ∧
      ∃ i < s.ctl.curW.toNat, s.ctl.evt = 3 * i + 1 := by
  rcases s.advance_cases with ⟨_, e⟩ | ⟨_, ev, hev, e⟩ | ⟨_, _, e⟩
  · exact absurd (congrArg (·.log.samples) e) h
  · have hact := eventAction_of_mem hev
    have hmode := s.perform_mode ev.act
    rw [e, State.startHold_log] at h ⊢
    rw [State.startHold_lines]
    change _ ∧ (s.perform ev.act).ctl.mode = _ ∧ _
    rw [hmode]
    generalize s.ctl.mode = m, ev.act = a at hact h ⊢
    cases hact with
    | drive | txBit | storeAndAck => exact absurd rfl h
    | sampleBit i hi hn => exact ⟨rfl, rfl, rfl, rfl, i, hi, hn⟩
  · exact absurd (congrArg (·.log.samples) e) h

theorem State.resetEdge_samples (op : BusOp) (s : State) :
    (s.resetEdge op).log.samples = s.log.samples := by
  cases op <;> rfl

/-- Settles O45: the invariant fixes ReadEnable and ReadAck at the first step of a slot. -/
theorem samplesAreTakenBetweenAcks : Obligations.SamplesAreTakenBetweenAcks := by
  intro s t hok h hne
  rcases step_inv h with ⟨_, rfl⟩ | ⟨hr, _⟩
  · exact absurd (s.resetEdge_samples _) hne
  cases hb : s.busy with
  | false =>
    obtain ⟨u, hu, _, e⟩ := step_idle hb hr
    obtain rfl := next_inj (e.symm.trans h)
    exact absurd (State.busAccess_keeps hu).samples hne
  | true =>
    obtain ⟨u, e, hu⟩ := step_busy hb hr
    obtain rfl := next_inj (e.symm.trans h)
    rw [hu.samples] at hne ⊢
    obtain ⟨hm, hm', hlines, hsamples, i, hi, hn⟩ := State.advance_samples hne
    have hbefore := hok.lines_before_receiveStep hm (r := 0) (by omega) (by norm_num) hn
    rw [hu.ctl, hu.lines, hlines, hbefore]
    exact ⟨hm, hm', rfl, rfl, rfl, hsamples⟩

end Sys2Proof.Machine
end

section
/-! PROOF. Runs as iterated edges: how the inputs move along a run without block reset, and two hosts on one
running command (40_link.md R93). -/

namespace Sys2Proof.Machine

/-! ## The state after some edges -/

/-- The state after one clock edge, which always exists (`step_eq_afterEdge`). -/
def State.afterEdge (s : State) : State :=
  match step s with
  | .next t => t
  | .fault _ | .refused _ => s

/-- The state after `n` clock edges. -/
def State.afterEdges (s : State) (n : Nat) : State := State.afterEdge^[n] s

theorem afterEdge_of_step {s t : State} (h : step s = .next t) : s.afterEdge = t := by
  rw [State.afterEdge, h]

theorem step_eq_afterEdge (s : State) : step s = .next s.afterEdge := by
  rcases step_cases s with ⟨_, e⟩ | ⟨_, _, _, e⟩ <;> rw [afterEdge_of_step e, e]

theorem State.afterEdges_succ' (s : State) (n : Nat) :
    s.afterEdges (n + 1) = (s.afterEdges n).afterEdge :=
  Function.iterate_succ_apply' _ n s

/-- A run never stops, and ends in the state after its edges. -/
theorem run_eq_afterEdges (n : Nat) (s : State) :
    Host.Core.run Sys2Proof.core n s = .next (s.afterEdges n) := by
  induction n generalizing s with
  | zero => rfl
  | succ n ih => rw [run_succ, step_eq_afterEdge]; exact ih s.afterEdge

/-! ## The host's cycles and the inputs along a run -/

/-- Every edge uses up one cycle of the host, block reset included. -/
theorem State.afterEdge_host (s : State) : s.afterEdge.host = s.host.tail := by
  cases hr : s.hostCycle.rst with
  | false => exact (step_inputsMove hr (step_eq_afterEdge s)).host
  | true =>
    rcases step_inv (step_eq_afterEdge s) with ⟨_, e⟩ | ⟨hr', _⟩
    · obtain ⟨log, e', _⟩ := s.resetEdge_eq s.hostCycle.bus
      rw [e, e']
    · simp [hr] at hr'

theorem State.noReset_mono {s : State} {m n : Nat} (h : s.noReset n) (hmn : m ≤ n) : s.noReset m :=
  fun c hc => h c (List.take_subset_take_left s.host hmn hc)

theorem State.noReset_afterEdge {s : State} {n : Nat} (h : s.noReset (n + 1)) :
    s.afterEdge.noReset n :=
  State.noReset_tail h s.afterEdge_host

/-- A run without block reset has none in any of its cycles. -/
theorem State.noReset_cycle {s : State} {n k : Nat} (h : s.noReset n) (hk : k < n) :
    (s.afterEdges k).hostCycle.rst = false := by
  induction n generalizing s k with
  | zero => omega
  | succ n ih =>
    cases k with
    | zero => exact State.noReset_head h
    | succ k => exact ih (s := s.afterEdge) (k := k) (State.noReset_afterEdge h) (by omega)

theorem State.afterEdge_inputs {s : State} (hr : s.hostCycle.rst = false) :
    s.InputsMove s.afterEdge :=
  step_inputsMove hr (step_eq_afterEdge s)

theorem State.afterEdges_edge {s : State} {n : Nat} (h : s.noReset n) :
    (s.afterEdges n).log.edge = s.log.edge + n := by
  induction n with
  | zero => rfl
  | succ n ih =>
    have hprev := ih (State.noReset_mono h n.le_succ)
    have hcycle := State.noReset_cycle h n.lt_succ_self
    rw [State.afterEdges_succ', (State.afterEdge_inputs hcycle).edge, hprev]
    rfl

theorem State.afterEdges_dataInSync {s : State} {n : Nat} (h : s.noReset n) :
    (s.afterEdges n).dataInSync = s.syncAt n :=
  synchroniserDelaysThePin s _ n h (run_eq_afterEdges n s)

theorem State.afterEdge_busy {s : State} (hb : s.busy = true) (hr : s.hostCycle.rst = false) :
    s.BusyStep s.afterEdge := by
  obtain ⟨t, e, ht⟩ := step_busy hb hr
  exact afterEdge_of_step e ▸ ht

/-- The edge counts one of the remaining cycles off. -/
theorem State.afterEdge_remaining {s : State} (hb : s.busy = true) (hr : s.hostCycle.rst = false) :
    s.afterEdge.remaining + 1 = s.remaining := by
  obtain ⟨t, e, hrem, _⟩ := everyEdgeBringsCompletionNearer s hb hr
  exact afterEdge_of_step e ▸ hrem

/-! ## The line trace -/

/-- An edge without block reset notes the lines that it changed (70_reset_and_hazards.md R193). -/
theorem State.afterEdge_lineTrace {s : State} (hr : s.hostCycle.rst = false) :
    s.afterEdge.log.lineTrace =
      (s.lines.changes s.afterEdge.lines).map (fun c => ⟨s.log.edge, c.1, c.2⟩) ++ s.log.lineTrace := by
  rcases step_inv (step_eq_afterEdge s) with ⟨hr', _⟩ | ⟨_, u, hu, e⟩
  · simp [hr] at hr'
  · have same := s.controllerEdge_same u
    rw [e, ← (State.busAccess_sameInputs hu).edge, ← (State.busAccess_keeps hu).lineTrace, ← same.edge,
      ← same.lineTrace]
    rfl

/-- Two runs that show the same lines at every edge have the same line trace. -/
theorem State.lineTrace_congr {s u : State} {n : Nat} (hs : s.noReset n) (hu : u.noReset n)
    (edge : u.log.edge = s.log.edge) (trace : u.log.lineTrace = s.log.lineTrace)
    (lines : ∀ k ≤ n, (u.afterEdges k).lines = (s.afterEdges k).lines) :
    (u.afterEdges n).log.lineTrace = (s.afterEdges n).log.lineTrace := by
  induction n with
  | zero => exact trace
  | succ n ih =>
    have hs' := State.noReset_mono hs n.le_succ
    have hu' := State.noReset_mono hu n.le_succ
    have hlast := lines (n + 1) le_rfl
    rw [State.afterEdges_succ', State.afterEdges_succ'] at hlast ⊢
    rw [State.afterEdge_lineTrace (State.noReset_cycle hs n.lt_succ_self),
      State.afterEdge_lineTrace (State.noReset_cycle hu n.lt_succ_self), hlast,
      lines n n.le_succ, State.afterEdges_edge hs', State.afterEdges_edge hu', edge,
      ih hs' hu' fun k hk => lines k (by omega)]

/-! ## Two hosts on one running command -/

/-- The two states differ at most in the host's coming cycles, in STATUS, and in the records of faults and
reads (20_memory.md R66). -/
structure State.SameCommand (s u : State) : Prop where
  ctl : u.ctl = s.ctl
  lines : u.lines = s.lines
  sync : u.sync = s.sync
  holds : u.holds = s.holds
  txData : u.txData = s.txData
  rxData : u.rxData = s.rxData
  sampleRecv : u.sampleRecv = s.sampleRecv
  sampleExp : u.sampleExp = s.sampleExp
  ana : u.ana = s.ana
  pins : u.pins = s.pins
  param : u.param = s.param
  edge : u.log.edge = s.log.edge
  lineTrace : u.log.lineTrace = s.log.lineTrace
  samples : u.log.samples = s.log.samples

/-- The host's coming cycles and what only its accesses write. -/
def State.withHostSide (s : State) (host : List HostCycle) (status : Status)
    (faults : List FaultRecord) (reads : List ReadRecord) : State :=
  { s with host := host, status := status, log := { s.log with faults := faults, reads := reads } }

theorem State.SameCommand.eq_withHostSide {s u : State} (h : s.SameCommand u) :
    u = s.withHostSide u.host u.status u.log.faults u.log.reads := by
  obtain ⟨⟩ := h
  cases u with | mk _ _ _ _ _ _ _ _ _ _ _ _ log _ => cases log; simp_all [State.withHostSide]

/-- What differs decides nothing of what an edge does to a running command. -/
theorem State.advance_withHostSide (s : State) (host : List HostCycle) (status : Status)
    (faults : List FaultRecord) (reads : List ReadRecord) :
    (s.withHostSide host status faults reads).advance =
      s.advance.withHostSide host status faults reads :=
  (State.advance_withHost { s with status := status, log := _ } host).trans
    (congrArg (fun t : State => { t with host := host })
      (s.advance_withStatusLog status faults reads))

theorem State.SameCommand.advance {s u : State} (h : s.SameCommand u) :
    s.advance.SameCommand u.advance := by
  rw [h.eq_withHostSide, State.advance_withHostSide]
  constructor <;> rfl

/-- An edge of a running command keeps the two states alike, whatever each host accesses. -/
theorem State.SameCommand.afterEdge {s u : State} (h : s.SameCommand u) (hb : s.busy = true)
    (hs : s.hostCycle.rst = false) (hu : u.hostCycle.rst = false) :
    s.afterEdge.SameCommand u.afterEdge := by
  have hbu : u.busy = true := by rw [State.busy, h.ctl]; exact hb
  have ss := State.afterEdge_busy hb hs
  have us := State.afterEdge_busy hbu hu
  have adv := h.advance
  have pin : u.pin = s.pin := by simp only [State.pin, h.pins, h.edge]
  constructor
  case ctl => rw [ss.ctl, us.ctl, adv.ctl]
  case lines => rw [ss.lines, us.lines, adv.lines]
  case sync => rw [ss.sync, us.sync, h.sync, pin]
  case holds => rw [ss.holds, us.holds, h.holds]
  case txData => rw [ss.txData, us.txData, h.txData]
  case rxData => rw [ss.rxData, us.rxData, adv.rxData]
  case sampleRecv => rw [ss.sampleRecv, us.sampleRecv, h.sampleRecv]
  case sampleExp => rw [ss.sampleExp, us.sampleExp, h.sampleExp]
  case ana => rw [ss.ana, us.ana, h.ana]
  case pins => rw [ss.pins, us.pins, h.pins]
  case param => rw [ss.param, us.param, h.param]
  case edge => rw [ss.edge, us.edge, h.edge]
  case lineTrace => rw [ss.lineTrace, us.lineTrace, h.lines, h.edge, h.lineTrace, adv.lines]
  case samples => rw [ss.samples, us.samples, adv.samples]

theorem State.SameCommand.afterEdges {s u : State} {n : Nat} (h : s.SameCommand u)
    (hn : n ≤ s.remaining) (hs : s.noReset n) (hu : u.noReset n) :
    (s.afterEdges n).SameCommand (u.afterEdges n) := by
  induction n generalizing s u with
  | zero => exact h
  | succ n ih =>
    have hb := State.busy_of_remaining (s := s) (by omega)
    have hrs := State.noReset_head hs
    have hrem := State.afterEdge_remaining hb hrs
    exact ih (h.afterEdge hb hrs (State.noReset_head hu)) (by omega) (State.noReset_afterEdge hs)
      (State.noReset_afterEdge hu)

/-- Settles O57: two hosts start from states that are alike, and every edge up to completion keeps them so. -/
theorem hostCannotAlterARunningCommand : Obligations.HostCannotAlterARunningCommand := by
  intro s host n hn hs hu
  have start : s.SameCommand { s with host := host } := by constructor <;> rfl
  have same := start.afterEdges hn hs hu
  exact ⟨_, _, run_eq_afterEdges n s, run_eq_afterEdges n _, same.ctl, same.lines, same.rxData,
    same.holds, same.txData, same.sampleRecv, same.sampleExp, same.ana, same.lineTrace, same.samples⟩

end Sys2Proof.Machine
end

section
/-! PROOF. A link command from its acceptance edge to its completion: each event at its own edge, and what
the state shows of the command through the hold after it (40_link.md R92). -/

namespace Sys2Proof.Machine

/-! ## What the events of a list have written -/

/-- The event list of the command that a controller runs. -/
def Ctl.program (c : Ctl) : List Event := events c.mode c.curW.toNat

theorem State.program_eq (s : State) : s.program = s.ctl.program := rfl

/-- What the samples of a RECEIVE go to: the variable b, RXSHIFT, and the model's record (log entries 6
and 7). -/
structure RxData where
  bit : Bool
  shift : Word
  samples : List Sample

def State.rx (s : State) : RxData := ⟨s.ctl.rxBit, s.ctl.rxShift, s.log.samples⟩

/-- What an action does to them at the edge number `edge`, where DataIn_sync is `b` (40_link.md R110). -/
def RxData.act (edge : Nat) (b : Bool) (x : RxData) : Action → RxData
  | .sampleBit _ => { x with bit := b, samples := ⟨edge, b⟩ :: x.samples }
  | .storeAndAck i => { x with
      shift := if x.bit then x.shift ||| BitVec.twoPow 32 i else x.shift &&& ~~~ BitVec.twoPow 32 i }
  | .drive _ _ | .txBit _ => x

theorem State.perform_rx (a : Action) (s : State) :
    (s.perform a).rx = s.rx.act s.log.edge s.dataInSync a := by
  cases a <;> rfl

/-- What the first `j` events of a list that starts in the coming cycle leave of `x`, each at its time. -/
def State.rxAfter (s : State) (es : List Event) (x : RxData) : Nat → RxData
  | 0 => x
  | j + 1 =>
    match es[j]? with
    | some e =>
      (s.rxAfter es x j).act (s.log.edge + s.eventTime es j) (s.syncAt (s.eventTime es j)) e.act
    | none => s.rxAfter es x j

theorem State.rxAfter_succ (s : State) {es : List Event} {j : Nat} {e : Event} (he : es[j]? = some e)
    (x : RxData) : s.rxAfter es x (j + 1) =
      (s.rxAfter es x j).act (s.log.edge + s.eventTime es j) (s.syncAt (s.eventTime es j)) e.act := by
  rw [State.rxAfter, he]

@[simp] theorem State.waitLen_hold (s : State) (h : HoldReg) : s.waitLen (.hold h) = s.holdLen h := rfl

@[simp] theorem State.eventTime_zero (s : State) (es : List Event) : s.eventTime es 0 = 0 := rfl

theorem State.eventTime_succ (s : State) {es : List Event} {j : Nat} {e : Event}
    (he : es[j]? = some e) : s.eventTime es (j + 1) = s.eventTime es j + s.waitLen e.wait := by
  simp [State.eventTime, List.take_add_one, he]

theorem replayLines_take_succ {es : List Event} {j : Nat} {e : Event} (he : es[j]? = some e) (tx : Word)
    (l : Lines) :
    replayLines tx (es.take (j + 1)) l = lineEffect tx (replayLines tx (es.take j) l) e.act := by
  simp [replayLines, List.take_add_one, he]

/-- The lines depend on the bits that the list drives alone. -/
theorem replayLines_congr {tx tx' : Word} {es : List Event}
    (h : ∀ e ∈ es, ∀ i, e.act = .txBit i → tx.getLsbD i = tx'.getLsbD i) (l : Lines) :
    replayLines tx es l = replayLines tx' es l := by
  induction es generalizing l with
  | nil => rfl
  | cons e es ih =>
    have head : lineEffect tx l e.act = lineEffect tx' l e.act := by
      cases ha : e.act with
      | txBit i => rw [lineEffect, lineEffect, h e List.mem_cons_self i ha]
      | _ => rfl
    change replayLines tx es (lineEffect tx l e.act) = replayLines tx' es (lineEffect tx' l e.act)
    rw [head, ih fun d hd => h d (List.mem_cons_of_mem _ hd)]

/-! ## The progress of a command -/

/-- In `t` the first `j` events have happened of the command with controller `c` that starts in `s`. -/
structure State.Progress (s : State) (c : Ctl) (j : Nat) (t : State) : Prop where
  mode : t.ctl.mode = c.mode
  curW : t.ctl.curW = c.curW
  txShift : t.ctl.txShift = c.txShift
  evt : t.ctl.evt = j
  lines : t.lines = replayLines c.txShift (c.program.take j) s.lines
  rx : t.rx = s.rxAfter c.program ⟨c.rxBit, c.rxShift, s.log.samples⟩ j
  rxData : t.rxData = s.rxData
  holds : t.holds = s.holds
  param : t.param = s.param

/-- Before its event E0 a command has made no progress. -/
theorem State.progress_zero (s : State) (c : Ctl) :
    s.Progress c 0 { s with ctl := { c with evt := 0 } } := by
  constructor <;> rfl

section
variable {s t : State} {c : Ctl} {j : Nat}

theorem State.Progress.program (h : s.Progress c j t) : t.program = c.program := by
  rw [State.program_eq, Ctl.program, h.mode, h.curW, Ctl.program]

theorem State.Progress.waitLen (h : s.Progress c j t) (w : Wait) : t.waitLen w = s.waitLen w :=
  State.waitLen_congr h.holds h.param w

/-- The next event, at its time. -/
theorem State.Progress.event (h : s.Progress c j t) {e : Event} (he : c.program[j]? = some e)
    (edge : t.log.edge = s.log.edge + s.eventTime c.program j)
    (sync : t.dataInSync = s.syncAt (s.eventTime c.program j)) :
    s.Progress c (j + 1) (t.afterEvent e) := by
  have same := t.perform_same e.act
  constructor
  case mode => rw [t.afterEvent_mode, h.mode]
  case curW => rw [t.afterEvent_curW, h.curW]
  case txShift => rw [t.afterEvent_txShift, h.txShift]
  case evt => rw [t.afterEvent_evt, h.evt]
  case lines => rw [t.afterEvent_lines, h.txShift, h.lines, replayLines_take_succ he]
  case rx => rw [s.rxAfter_succ he, ← h.rx, ← edge, ← sync, ← State.perform_rx]; rfl
  case rxData => rw [t.afterEvent_rxData, h.rxData]
  case holds => exact same.holds.trans h.holds
  case param => rw [t.afterEvent_param, h.param]

/-- The end of an edge is no progress. -/
theorem State.Progress.endEdge (h : s.Progress c j t) (old : Lines) :
    s.Progress c j (t.shiftSync.recordLines old).endCycle :=
  ⟨h.mode, h.curW, h.txShift, h.evt, h.lines, h.rx, h.rxData, h.holds, h.param⟩

/-- The progress that the controller makes at an edge of a running command is that of the whole edge. -/
theorem State.Progress.busyStep {u : State} (h : s.Progress c j t.advance) (hu : t.BusyStep u) :
    s.Progress c j u := by
  have same := t.advance_same
  have hrx : u.rx = t.advance.rx := by rw [State.rx, hu.ctl, hu.samples]; rfl
  constructor
  case mode => rw [hu.ctl, h.mode]
  case curW => rw [hu.ctl, h.curW]
  case txShift => rw [hu.ctl, h.txShift]
  case evt => rw [hu.ctl, h.evt]
  case lines => rw [hu.lines, h.lines]
  case rx => rw [hrx, h.rx]
  case rxData => rw [hu.rxData, h.rxData]
  case holds => rw [hu.holds, ← same.holds, h.holds]
  case param => rw [hu.param, ← same.param, h.param]

/-- While a hold lasts there is no progress. -/
theorem State.Progress.countDown (h : s.Progress c j t) (hold : 1 < t.ctl.holdCnt.toNat) :
    s.Progress c j t.advance ∧ t.advance.ctl.holdCnt.toNat + 1 = t.ctl.holdCnt.toNat := by
  rw [State.advance, if_neg (by omega)]
  refine ⟨⟨h.mode, h.curW, h.txShift, h.evt, h.lines, h.rx, h.rxData, h.holds, h.param⟩, ?_⟩
  show (t.ctl.holdCnt - 1).toNat + 1 = _
  bv_omega

theorem State.Progress.busy (h : s.Progress c j t) (hc : c.mode ≠ .idle) : t.busy = true := by
  rw [State.busy_iff, h.mode]
  exact hc

end

/-! ## Every event at its edge -/

/-- In `t` event `j`, which is `e`, of the command has happened, and `r` more edges of its hold. -/
structure State.InHold (s : State) (c : Ctl) (j : Nat) (e : Event) (r : Nat) (t : State) : Prop where
  progress : s.Progress c (j + 1) t
  hold : t.ctl.holdCnt.toNat + r = s.waitLen e.wait

/-- The coming edge of `s` accepts the link command that the controller `c` starts. -/
structure State.Begins (s : State) (c : Ctl) : Prop where
  notIdle : c.mode ≠ .idle
  edge : s.afterEdge = ((s.start c).shiftSync.recordLines s.lines).endCycle

section
variable {s : State} {c : Ctl} {j : Nat} {e : Event}

/-- Event E0 happens at the acceptance edge. -/
theorem State.Begins.first (h : s.Begins c) (he : c.program[0]? = some e) :
    s.InHold c 0 e 0 s.afterEdge := by
  have h0 := (s.progress_zero c).event he rfl s.syncAt_zero.symm
  rw [h.edge, State.start_eq he]
  exact ⟨h0.endEdge s.lines, State.startHold_holdCnt_toNat _ _ |>.trans <|
    (State.perform_waitLen _ _ _).trans ((s.progress_zero c).waitLen _)⟩

/-- One more edge of a hold that lasts. -/
theorem State.InHold.next {r : Nat} {t : State} (h : s.InHold c j e r t) (hc : c.mode ≠ .idle)
    (hr : r + 1 < s.waitLen e.wait) (hrst : t.hostCycle.rst = false) :
    s.InHold c j e (r + 1) t.afterEdge := by
  have hold := h.hold
  have busy := State.afterEdge_busy (h.progress.busy hc) hrst
  obtain ⟨progress, hcnt⟩ := h.progress.countDown (by omega)
  refine ⟨progress.busyStep busy, ?_⟩
  rw [busy.ctl]
  omega

/-- The edge that ends a hold is that of the next event. -/
theorem State.InHold.event {r : Nat} {t : State} (h : s.InHold c j e r t) (hc : c.mode ≠ .idle)
    (hr : r + 1 = s.waitLen e.wait) (hrst : t.hostCycle.rst = false) {d : Event}
    (hd : c.program[j + 1]? = some d)
    (edge : t.log.edge = s.log.edge + s.eventTime c.program (j + 1))
    (sync : t.dataInSync = s.syncAt (s.eventTime c.program (j + 1))) :
    s.InHold c (j + 1) d 0 t.afterEdge := by
  have hold := h.hold
  have busy := State.afterEdge_busy (h.progress.busy hc) hrst
  have hadv : t.advance = t.afterEvent d := by
    rw [State.advance, if_pos (by omega), State.fire, h.progress.program, h.progress.evt, hd]
    rfl
  have progress := h.progress.event hd edge sync
  rw [← hadv] at progress
  refine ⟨progress.busyStep busy, ?_⟩
  rw [busy.ctl, hadv]
  exact (State.startHold_holdCnt_toNat _ _).trans
    ((t.perform_waitLen _ _).trans (h.progress.waitLen _))

/-- From an event's edge on, its hold lasts. -/
theorem State.inHold_of_first (hc : c.mode ≠ .idle) {n : Nat} {r : Nat} (hr : r < s.waitLen e.wait)
    (hn : s.noReset (n + r)) (h : s.InHold c j e 0 (s.afterEdges n)) :
    s.InHold c j e r (s.afterEdges (n + r)) := by
  induction r with
  | zero => exact h
  | succ r ih =>
    have hprev := ih (by omega) (State.noReset_mono hn (by omega))
    rw [← Nat.add_assoc, State.afterEdges_succ']
    exact hprev.next hc hr (State.noReset_cycle hn (by omega))

/-- Every event of the command happens at its time, and its hold follows (40_link.md R92). -/
theorem State.Begins.inHold (h : s.Begins c) (he : c.program[j]? = some e) {r : Nat}
    (hr : r < s.waitLen e.wait) (hn : s.noReset (s.eventTime c.program j + r + 1)) :
    s.InHold c j e r (s.afterEdges (s.eventTime c.program j + r + 1)) := by
  induction j generalizing e r with
  | zero =>
    rw [State.eventTime_zero, Nat.zero_add, Nat.add_comm r 1] at hn ⊢
    exact State.inHold_of_first h.notIdle hr hn (h.first he)
  | succ j ih =>
    obtain ⟨d, hd⟩ : ∃ d, c.program[j]? = some d :=
      ⟨_, List.getElem?_eq_getElem (Nat.lt_of_succ_lt (List.getElem?_eq_some_iff.mp he).1)⟩
    have hpos := s.waitLen_pos d.wait
    have htime := s.eventTime_succ hd
    have hlast : s.eventTime c.program j + (s.waitLen d.wait - 1) + 1 =
        s.eventTime c.program (j + 1) := by omega
    rw [Nat.add_right_comm] at hn ⊢
    refine State.inHold_of_first h.notIdle hr hn ?_
    have hnow : s.noReset (s.eventTime c.program (j + 1)) := State.noReset_mono hn (by omega)
    have hprev := ih hd (r := s.waitLen d.wait - 1) (by omega) (hlast ▸ hnow)
    rw [hlast] at hprev
    rw [State.afterEdges_succ']
    exact hprev.event h.notIdle (by omega) (State.noReset_cycle hn (by omega)) he
      (State.afterEdges_edge hnow) (State.afterEdges_dataInSync hnow)

/-- Every cycle before completion is in the hold of some event. -/
theorem State.exists_hold (s : State) {es : List Event} {k n : Nat} (hk : k ≤ es.length)
    (hn : n < s.eventTime es k) :
    ∃ j e r, es[j]? = some e ∧ r < s.waitLen e.wait ∧ n = s.eventTime es j + r := by
  induction k with
  | zero => simp at hn
  | succ k ih =>
    have he : es[k]? = some es[k] := List.getElem?_eq_getElem hk
    rw [s.eventTime_succ he] at hn
    by_cases hlt : n < s.eventTime es k
    · exact ih (by omega) hlt
    · exact ⟨k, es[k], n - s.eventTime es k, he, by omega, by omega⟩

/-! ## Completion -/

/-- What the completion edge leaves of the command (40_link.md R92, R110). -/
structure State.Completed (s : State) (c : Ctl) (t : State) : Prop where
  mode : t.ctl.mode = .idle
  lines : t.lines = replayLines c.txShift c.program s.lines
  rxData : t.rxData = if c.mode = .receiving then
    (s.rxAfter c.program ⟨c.rxBit, c.rxShift, s.log.samples⟩ c.program.length).shift else s.rxData
  samples : t.log.samples =
    (s.rxAfter c.program ⟨c.rxBit, c.rxShift, s.log.samples⟩ c.program.length).samples

/-- After the last event's hold the command completes. -/
theorem State.InHold.completed {r : Nat} {t : State} (h : s.InHold c j e r t) (hc : c.mode ≠ .idle)
    (hr : r + 1 = s.waitLen e.wait) (hrst : t.hostCycle.rst = false)
    (hj : j + 1 = c.program.length) : s.Completed c t.afterEdge := by
  have hold := h.hold
  have busy := State.afterEdge_busy (h.progress.busy hc) hrst
  have hadv : t.advance = t.complete := by
    rw [State.advance, if_pos (by omega), State.fire, h.progress.program, h.progress.evt,
      List.getElem?_eq_none hj.ge]
  have hrx := h.progress.rx
  rw [hj] at hrx
  constructor
  case mode => rw [busy.ctl, hadv]; rfl
  case lines =>
    rw [busy.lines, hadv, State.complete_lines, h.progress.lines, hj, List.take_length]
  case rxData =>
    rw [busy.rxData, hadv, State.complete_rxData, h.progress.mode, h.progress.rxData, ← hrx]
    rfl
  case samples => rw [busy.samples, hadv, ← hrx]; rfl

theorem State.Begins.program_pos (h : s.Begins c) : 0 < c.program.length :=
  State.program_length_pos (s := { s with ctl := c }) (State.busy_iff.mpr h.notIdle)

/-- The command completes at the edge after all its holds (40_link.md R92). -/
theorem State.Begins.completed (h : s.Begins c)
    (hn : s.noReset (s.eventTime c.program c.program.length + 1)) :
    s.Completed c (s.afterEdges (s.eventTime c.program c.program.length + 1)) := by
  obtain ⟨j, hj⟩ : ∃ j, j + 1 = c.program.length :=
    ⟨_, Nat.succ_pred_eq_of_pos h.program_pos⟩
  obtain ⟨d, hd⟩ : ∃ d, c.program[j]? = some d := ⟨_, List.getElem?_eq_getElem (by omega)⟩
  have hpos := s.waitLen_pos d.wait
  have htime := s.eventTime_succ hd
  have hlast : s.eventTime c.program j + (s.waitLen d.wait - 1) + 1 =
      s.eventTime c.program c.program.length := by rw [← hj]; omega
  have hprev := h.inHold hd (r := s.waitLen d.wait - 1) (by omega)
    (hlast ▸ State.noReset_mono hn (Nat.le_succ _))
  rw [hlast] at hprev
  rw [State.afterEdges_succ']
  exact hprev.completed h.notIdle (by omega) (State.noReset_cycle hn (Nat.lt_succ_self _)) hj

/-- Through all its cycles the command has made some progress (40_link.md R92). -/
theorem State.Begins.progress (h : s.Begins c) {n : Nat}
    (hn : n < s.eventTime c.program c.program.length) (hr : s.noReset (n + 1)) :
    ∃ j, s.Progress c j (s.afterEdges (n + 1)) := by
  obtain ⟨j, e, r, he, hlt, rfl⟩ := s.exists_hold le_rfl hn
  exact ⟨j + 1, (h.inHold he hlt hr).progress⟩

end

/-! ## Issuing a link command -/

/-- The controller that an accepted link command starts (40_link.md R100, R103, R110). -/
def State.linkCtl (s : State) : Instr → Ctl
  | .reset => { s.ctl with mode := .resetting }
  | .send w => { s.ctl with mode := .sending, curW := w, txShift := s.txData }
  | .receive w => { s.ctl with mode := .receiving, curW := w, rxShift := 0 }
  | .record _ | .clear _ => s.ctl

theorem State.linkCtl_mode (s : State) {i : Instr} {m : Mode} (hm : linkMode i = some m) :
    (s.linkCtl i).mode = m := by
  cases i <;> simp only [linkMode, Option.some.injEq, reduceCtorEq] at hm <;> exact hm

theorem State.linkCtl_program (s : State) {i : Instr} {m : Mode} (hm : linkMode i = some m) :
    (s.linkCtl i).program = events m i.width.toNat := by
  cases i <;> simp only [linkMode, Option.some.injEq, reduceCtorEq] at hm <;> exact hm ▸ rfl

/-- The bits that the command drives are those of TXDATA. -/
theorem State.linkCtl_txBit (s : State) {i : Instr} {m : Mode} (hm : linkMode i = some m) {e : Event}
    (he : e ∈ events m i.width.toNat) {k : Nat} (hk : e.act = .txBit k) :
    (s.linkCtl i).txShift = s.txData ∧ k < i.width.toNat := by
  obtain ⟨n, hn⟩ := List.getElem?_of_mem he
  have hact := eventAction_of_mem hn
  rw [hk] at hact
  cases hact with
  | txBit _ hlt => cases i <;> cases hm; exact ⟨rfl, hlt⟩

/-- The event list of a link command lasts for the cycles of 70_reset_and_hazards.md R191. -/
theorem State.eventTime_eq_cycles (s : State) {i : Instr} {m : Mode} (hm : linkMode i = some m) :
    s.eventTime (events m i.width.toNat) (events m i.width.toNat).length = s.cycles i := by
  have send := sum_slots s.waitLen sendSlot s.sendSlotCycles
    (fun _ => by simp [sendSlot, State.sendSlotCycles, Nat.add_assoc])
  have receive := sum_slots s.waitLen receiveSlot s.receiveSlotCycles
    (fun _ => by simp [receiveSlot, State.receiveSlotCycles, Nat.add_assoc])
  rw [State.eventTime, List.take_length]
  cases i with
  | reset => cases hm; rfl
  | send w =>
    cases hm
    simp [events, sendEvents, send, State.cycles, State.sendCycles, Instr.width,
      Nat.add_assoc]
  | receive w =>
    cases hm
    simp [events, receiveEvents, receive, State.cycles, State.receiveCycles, Instr.width,
      Nat.add_assoc]
  | record | clear => cases hm

/-- A legal link command is accepted in IDLE. -/
theorem exec_link {s : State} {i : Instr} {m : Mode} (hm : linkMode i = some m) (hb : s.busy = false)
    (hw : i.wellFormed s.param.wmax = true) : exec i s = .next (s.start (s.linkCtl i)) := by
  obtain ⟨hreset, hsend, hreceive⟩ := exec_link_accepted s hb
  cases i with
  | reset => exact hreset
  | send w => exact hsend w (of_decide_eq_true hw)
  | receive w => exact hreceive w (of_decide_eq_true hw)
  | record | clear => cases hm

/-- The edge at which the host issues a legal link command in IDLE accepts it. -/
theorem State.begins_of_issues {s : State} {i : Instr} {m : Mode} (hm : linkMode i = some m)
    (hb : s.busy = false) (hw : i.wellFormed s.param.wmax = true) (hi : s.issues i) :
    s.Begins (s.linkCtl i) := by
  obtain ⟨a, ha, hcycle⟩ := hi
  have haccess : s.busAccess (.write a (encode i)) = .next (s.start (s.linkCtl i)) := by
    rw [State.busAccess_cmd ha, State.issueCommand_of_decode (decode_encode i), exec_link hm hb hw]
  refine ⟨?_, ?_⟩
  · rw [s.linkCtl_mode hm]
    cases i <;> cases hm <;> decide
  · rw [afterEdge_of_step (step_of_busAccess hcycle haccess), State.finishEdge, if_neg (by simp [hb])]

/-- Settles O36: STATE is the command's through all its holds, and IDLE after them. -/
theorem linkCommandsRunToCompletion : Obligations.LinkCommandsRunToCompletion := by
  intro s i m hm hb hw hi hn
  have begins := State.begins_of_issues hm hb hw hi
  have hprog := s.linkCtl_program hm
  have htotal := s.eventTime_eq_cycles hm
  refine ⟨fun n h1 hle => ⟨_, run_eq_afterEdges n s, ?_⟩, _, run_eq_afterEdges _ s, ?_⟩
  · obtain ⟨k, rfl⟩ : ∃ k, n = k + 1 := ⟨n - 1, by omega⟩
    obtain ⟨j, progress⟩ := begins.progress (n := k) (by rw [hprog, htotal]; omega)
      (State.noReset_mono hn (by omega))
    rw [progress.mode, s.linkCtl_mode hm]
  · rw [← htotal, ← hprog] at hn ⊢
    exact (begins.completed hn).mode

/-- The lines of a link command's events, by TXDATA. -/
theorem State.linkCtl_replayLines (s : State) {i : Instr} {m : Mode} (hm : linkMode i = some m) (k : Nat)
    (l : Lines) :
    replayLines (s.linkCtl i).txShift ((events m i.width.toNat).take k) l =
      replayLines s.txData ((events m i.width.toNat).take k) l :=
  replayLines_congr (fun _ he _ hk =>
    (s.linkCtl_txBit hm (List.mem_of_mem_take he) hk).1 ▸ rfl) l

/-- Settles O37: each event stands at its edge, and the lines are those of the events so far. -/
theorem linkEventsHappenAtTheirEdges : Obligations.LinkEventsHappenAtTheirEdges := by
  intro s i m hm hb hw hi es j e r he hr hn
  have begins := State.begins_of_issues hm hb hw hi
  have hprog : (s.linkCtl i).program = es := s.linkCtl_program hm
  rw [← hprog] at he hn
  have hin := begins.inHold he hr hn
  rw [hprog] at hin
  refine ⟨_, run_eq_afterEdges _ s, ?_, hin.progress.evt, hin.hold, ?_⟩
  · rw [hin.progress.mode, s.linkCtl_mode hm]
  · rw [hin.progress.lines, hprog, s.linkCtl_replayLines hm]

end Sys2Proof.Machine
end

section
/-! PROOF. The steps of RESET, SEND and RECEIVE in the spec's own terms: the lines and the samples at every
edge from acceptance to completion (40_link.md R100, R103, R110). -/

namespace Sys2Proof.Machine

/-! ## What a link command shows -/

/-- After the `n + 1` edges from the coming one, if none resets the block, `P` holds of the state. -/
def State.Shows (s : State) (n : Nat) (P : State → Prop) : Prop :=
  s.noReset (n + 1) → ∃ t, Host.Core.run Sys2Proof.core (n + 1) s = .next t ∧ P t

theorem State.Shows.imp {s : State} {n : Nat} {P Q : State → Prop} (h : s.Shows n P)
    (hPQ : ∀ t, P t → Q t) : s.Shows n Q := by
  intro hn
  obtain ⟨t, hrun, ht⟩ := h hn
  exact ⟨t, hrun, hPQ t ht⟩

section
variable {s : State} {c : Ctl} {j n r : Nat} {e : Event} {l : Lines}

theorem State.Begins.shows_inHold (h : s.Begins c) (he : c.program[j]? = some e)
    (hr : r < s.waitLen e.wait) (hn : n = s.eventTime c.program j + r) :
    s.Shows n (s.InHold c j e r) := by
  subst hn
  exact fun hn => ⟨_, run_eq_afterEdges _ s, h.inHold he hr hn⟩

theorem State.Begins.shows_completed (h : s.Begins c)
    (hn : n = s.eventTime c.program c.program.length) : s.Shows n (s.Completed c) := by
  subst hn
  exact fun hn => ⟨_, run_eq_afterEdges _ s, h.completed hn⟩

/-- Through the hold of event `j` STATE is the command's and the lines are those of the events so far. -/
theorem State.Begins.shows_hold (h : s.Begins c) (he : c.program[j]? = some e)
    (hr : r < s.waitLen e.wait) (hn : n = s.eventTime c.program j + r)
    (hl : replayLines c.txShift (c.program.take (j + 1)) s.lines = l) :
    s.Shows n fun t => t.ctl.mode = c.mode ∧ t.lines = l :=
  (h.shows_inHold he hr hn).imp fun _ ht => ⟨ht.progress.mode, ht.progress.lines.trans hl⟩

/-- At completion STATE is IDLE and the lines are those of all events. -/
theorem State.Begins.shows_end (h : s.Begins c) (hn : n = s.eventTime c.program c.program.length)
    (hl : replayLines c.txShift c.program s.lines = l) :
    s.Shows n fun t => t.ctl.mode = .idle ∧ t.lines = l :=
  (h.shows_completed hn).imp fun _ ht => ⟨ht.mode, ht.lines.trans hl⟩

end

/-! ## RESET -/

/-- Settles O38: the Reset line rises at event 0 and falls at event 1. -/
theorem resetStepsLastTheirHolds : Obligations.ResetStepsLastTheirHolds := by
  intro s hok hb hi d idle shows
  have begins := State.begins_of_issues (i := .reset) rfl hb rfl hi
  have low : s.lines = idle := hok.idle_lines (State.not_busy_iff.mp hb)
  refine ⟨fun r hr => ?high, ?fallen, ?done⟩
  case high =>
    exact begins.shows_hold (j := 0) rfl hr (Nat.zero_add r).symm (congrArg (·.set .reset true) low)
  case fallen =>
    exact begins.shows_hold (j := 1) (r := 0) rfl Nat.one_pos rfl
      (congrArg (fun l => (l.set .reset true).set .reset false) low)
  case done =>
    exact begins.shows_end rfl (congrArg (fun l => (l.set .reset true).set .reset false) low)

/-! ## SEND -/

section
variable {w i : Nat} {tx : Word} {l : Lines} {out : Bool}

/-- The lines after each step of bit slot `i`, from those before the slot (40_link.md R103). -/
theorem replayLines_sendSlot (hi : i < w)
    (hl : replayLines tx ((sendEvents w).take (5 * i + 1)) l = sendLinesBefore 0 out) {q : Nat}
    (hq : q < 5) :
    replayLines tx ((sendEvents w).take (5 * i + q + 2)) l = sendLinesAfter q (tx.getLsbD i) := by
  have step : ∀ {q}, q < 5 → ∃ e, (sendSlot i)[q]? = some e ∧
      (sendEvents w)[5 * i + q + 1]? = some e := fun {q} hq =>
    have he := List.getElem?_eq_getElem (l := sendSlot i) hq
    ⟨_, he, (sendEvents_slot w i q hi hq).trans he⟩
  induction q with
  | zero =>
    obtain ⟨e, he, hev⟩ := step hq
    rw [replayLines_take_succ hev, Nat.add_zero, hl, lineEffect_sendSlot he]
    rfl
  | succ q ih =>
    obtain ⟨e, he, hev⟩ := step hq
    have before : sendLinesAfter q (tx.getLsbD i) = sendLinesBefore (q + 1) (tx.getLsbD i) := by
      simp [sendLinesAfter, sendLinesBefore]
    rw [replayLines_take_succ hev, ← Nat.add_assoc, ih (by omega), before, lineEffect_sendSlot he]
    rfl

/-- DataOut after the first `k` bit slots of SEND (40_link.md R107). -/
def lastBit (tx : Word) (out : Bool) (k : Nat) : Bool := if k = 0 then out else tx.getLsbD (k - 1)

theorem lastBit_width (tx : Word) (out : Bool) (w : Width) :
    lastBit tx out w.toNat = if w = 0 then out else tx.getLsbD (w.toNat - 1) :=
  if_congr (BitVec.toNat_inj (y := 0)) rfl rfl

/-- The lines before bit slot `i`. -/
theorem replayLines_sendSlots (hl : l = { Lines.low with dataOut := out }) (hi : i ≤ w) :
    replayLines tx ((sendEvents w).take (5 * i + 1)) l = sendLinesBefore 0 (lastBit tx out i) := by
  induction i with
  | zero => rw [hl]; rfl
  | succ i ih =>
    have after := replayLines_sendSlot hi (ih (by omega)) (q := 4) (by norm_num)
    rw [Nat.mul_add_one, after]
    rfl

theorem take_sendEvents (w : Nat) : (sendEvents w).take (5 * w + 2) = sendEvents w :=
  List.take_of_length_le (sendEvents_length w).le

/-- The lines after the whole of SEND. -/
theorem replayLines_sendEvents (hl : l = { Lines.low with dataOut := out }) :
    replayLines tx (sendEvents w) l = { Lines.low with dataOut := lastBit tx out w } := by
  rw [← take_sendEvents, replayLines_take_succ (sendEvents_last w), replayLines_sendSlots hl le_rfl]
  rfl

variable (s : State)

/-- The times of the steps of bit slot `i` of SEND, and of what follows it. -/
theorem State.eventTime_sendSlot (hi : i < w) {t : Nat}
    (ht : s.eventTime (sendEvents w) (5 * i + 1) = t) :
    s.eventTime (sendEvents w) (5 * i + 2) = t + s.holdLen .txSettle ∧
    s.eventTime (sendEvents w) (5 * i + 3) = t + s.holdLen .txSettle + s.holdLen .latchHi ∧
    s.eventTime (sendEvents w) (5 * i + 4) =
      t + s.holdLen .txSettle + s.holdLen .latchHi + s.holdLen .latchLo ∧
    s.eventTime (sendEvents w) (5 * i + 5) =
      t + s.holdLen .txSettle + s.holdLen .latchHi + s.holdLen .latchLo + s.holdLen .bclkHi ∧
    s.eventTime (sendEvents w) (5 * (i + 1) + 1) = t + s.sendSlotCycles := by
  have h0 := s.eventTime_succ (sendEvents_slot w i 0 hi (by norm_num) : _ = some _)
  have h1 := s.eventTime_succ (sendEvents_slot w i 1 hi (by norm_num) : _ = some _)
  have h2 := s.eventTime_succ (sendEvents_slot w i 2 hi (by norm_num) : _ = some _)
  have h3 := s.eventTime_succ (sendEvents_slot w i 3 hi (by norm_num) : _ = some _)
  have h4 := s.eventTime_succ (sendEvents_slot w i 4 hi (by norm_num) : _ = some _)
  simp only [State.waitLen_hold, Nat.add_assoc, Nat.reduceAdd] at h0 h1 h2 h3 h4
  rw [show 5 * (i + 1) + 1 = 5 * i + 6 by omega, State.sendSlotCycles]
  omega

/-- Bit slot `i` of SEND starts after H_TX_START and `i` slots (40_link.md R108). -/
theorem State.eventTime_sendSlots (hi : i ≤ w) : s.eventTime (sendEvents w) (5 * i + 1) =
    s.holdLen .txStart + i * s.sendSlotCycles := by
  induction i with
  | zero => simpa using s.eventTime_succ (sendEvents_zero w)
  | succ i ih =>
    obtain ⟨_, _, _, _, hnext⟩ := s.eventTime_sendSlot hi (ih (by omega))
    rw [hnext, Nat.add_one_mul, Nat.add_assoc]

end

/-- Through the hold of step `q` of bit slot `i` SEND shows that step's lines. -/
theorem State.Begins.shows_sendStep {s : State} {w : Width} (h : s.Begins (s.linkCtl (.send w)))
    (low : s.lines = { Lines.low with dataOut := s.lines.dataOut }) {i q t r : Nat} {e : Event}
    (hi : i < w.toNat) (he : (sendSlot i)[q]? = some e)
    (ht : s.eventTime (sendEvents w.toNat) (5 * i + q + 1) = t) (hr : r < s.waitLen e.wait) :
    s.Shows (t + r) fun u =>
      u.ctl.mode = .sending ∧ u.lines = sendLinesAfter q (s.txData.getLsbD i) := by
  have hq : q < 5 := (List.getElem?_eq_some_iff.mp he).1
  exact h.shows_hold ((sendEvents_slot w.toNat i q hi hq).trans he) hr (congrArg (· + r) ht.symm)
    (replayLines_sendSlot hi (replayLines_sendSlots low hi.le) hq)

/-- Settles O39: the lines after event 5i + q + 1 are those after step q of slot i, and its time is the sum
of the holds before it. -/
theorem sendStepsLastTheirHolds : Obligations.SendStepsLastTheirHolds := by
  intro s w hok hb hw hi d slot shows last start
  have begins := State.begins_of_issues (i := .send w) rfl hb (decide_eq_true hw) hi
  have low := hok.idle_lines (State.not_busy_iff.mp hb)
  have finish : replayLines s.txData (sendEvents w.toNat) s.lines = { Lines.low with dataOut := last } := by
    rw [replayLines_sendEvents low, lastBit_width]
  have finishTime : s.eventTime (sendEvents w.toNat) (5 * w.toNat + 1) = slot w.toNat :=
    s.eventTime_sendSlots le_rfl
  refine ⟨fun r hr => ?start, fun i hi => ?slot, fun r hr => ?finish, ?done⟩
  case start =>
    exact begins.shows_hold (j := 0) rfl hr (Nat.zero_add r).symm (congrArg (·.set .busClock true) low)
  case slot =>
    intro drive
    have time : s.eventTime (sendEvents w.toNat) (5 * i + 1) = slot i := s.eventTime_sendSlots hi.le
    obtain ⟨time1, time2, time3, time4, _⟩ := s.eventTime_sendSlot hi time
    exact ⟨fun r => begins.shows_sendStep low hi (q := 0) rfl time,
      fun r => begins.shows_sendStep low hi (q := 1) rfl time1,
      fun r => begins.shows_sendStep low hi (q := 2) rfl time2,
      fun r => begins.shows_sendStep low hi (q := 3) rfl time3,
      fun r => begins.shows_sendStep low hi (q := 4) rfl time4⟩
  case finish =>
    exact begins.shows_hold (sendEvents_last w.toNat) hr (congrArg (· + r) finishTime.symm)
      ((congrArg (replayLines s.txData · s.lines) (take_sendEvents w.toNat)).trans finish)
  case done =>
    have total : s.eventTime (sendEvents w.toNat) (sendEvents w.toNat).length = _ :=
      (sendEvents_length w.toNat).symm ▸ s.eventTime_succ (sendEvents_last w.toNat)
    exact begins.shows_end (total.trans (finishTime ▸ rfl)).symm finish

/-! ## RECEIVE -/

section
variable {w i : Nat} {tx : Word} {l : Lines} {out : Bool}

/-- The lines after each step of bit slot `i`, from those before the slot (40_link.md R110). -/
theorem replayLines_receiveSlot (hi : i < w)
    (hl : replayLines tx ((receiveEvents w).take (3 * i + 1)) l = receiveLinesBefore 0 out) {q : Nat}
    (hq : q < 3) :
    replayLines tx ((receiveEvents w).take (3 * i + q + 2)) l = receiveLinesAfter q out := by
  have step : ∀ {q}, q < 3 → ∃ e, (receiveSlot i)[q]? = some e ∧
      (receiveEvents w)[3 * i + q + 1]? = some e := fun {q} hq =>
    have he := List.getElem?_eq_getElem (l := receiveSlot i) hq
    ⟨_, he, (receiveEvents_slot w i q hi hq).trans he⟩
  induction q with
  | zero =>
    obtain ⟨e, he, hev⟩ := step hq
    rw [replayLines_take_succ hev, Nat.add_zero, hl, lineEffect_receiveSlot he]
  | succ q ih =>
    obtain ⟨e, he, hev⟩ := step hq
    have before : receiveLinesAfter q out = receiveLinesBefore (q + 1) out := by
      simp [receiveLinesAfter, receiveLinesBefore]
    rw [replayLines_take_succ hev, ← Nat.add_assoc, ih (by omega), before, lineEffect_receiveSlot he]

/-- The lines before bit slot `i`. -/
theorem replayLines_receiveSlots (hl : l = { Lines.low with dataOut := out }) (hi : i ≤ w) :
    replayLines tx ((receiveEvents w).take (3 * i + 1)) l = receiveLinesBefore 0 out := by
  induction i with
  | zero => rw [hl]; rfl
  | succ i ih =>
    have after := replayLines_receiveSlot hi (ih (by omega)) (q := 2) (by norm_num)
    rw [Nat.mul_add_one, after]
    rfl

theorem take_receiveEvents (w : Nat) : (receiveEvents w).take (3 * w + 2) = receiveEvents w :=
  List.take_of_length_le (receiveEvents_length w).le

/-- The lines after the whole of RECEIVE. -/
theorem replayLines_receiveEvents (hl : l = { Lines.low with dataOut := out }) :
    replayLines tx (receiveEvents w) l = l := by
  rw [← take_receiveEvents, replayLines_take_succ (receiveEvents_last w),
    replayLines_receiveSlots hl le_rfl, hl]
  rfl

variable (s : State)

/-- The times of the steps of bit slot `i` of RECEIVE, and of what follows it. -/
theorem State.eventTime_receiveSlot (hi : i < w) {t : Nat}
    (ht : s.eventTime (receiveEvents w) (3 * i + 1) = t) :
    s.eventTime (receiveEvents w) (3 * i + 2) = t + s.holdLen .rxSample ∧
    s.eventTime (receiveEvents w) (3 * i + 3) = t + s.holdLen .rxSample + s.holdLen .ackHi ∧
    s.eventTime (receiveEvents w) (3 * (i + 1) + 1) = t + s.receiveSlotCycles := by
  have h0 := s.eventTime_succ (receiveEvents_slot w i 0 hi (by norm_num) : _ = some _)
  have h1 := s.eventTime_succ (receiveEvents_slot w i 1 hi (by norm_num) : _ = some _)
  have h2 := s.eventTime_succ (receiveEvents_slot w i 2 hi (by norm_num) : _ = some _)
  simp only [State.waitLen_hold, Nat.add_assoc, Nat.reduceAdd] at h0 h1 h2
  rw [show 3 * (i + 1) + 1 = 3 * i + 4 by omega, State.receiveSlotCycles]
  omega

/-- Bit slot `i` of RECEIVE starts at the edge of sample `i` (40_link.md R113). -/
theorem State.eventTime_receiveSlots (hi : i ≤ w) :
    s.eventTime (receiveEvents w) (3 * i + 1) = s.sampleTime i := by
  induction i with
  | zero => simpa [State.sampleTime] using s.eventTime_succ (receiveEvents_zero w)
  | succ i ih =>
    obtain ⟨_, _, hnext⟩ := s.eventTime_receiveSlot hi (ih (by omega))
    rw [hnext, State.sampleTime, State.sampleTime, Nat.add_one_mul, Nat.add_assoc]

/-! ### The samples -/

/-- The model's record of the first `k` samples of a RECEIVE issued in the coming cycle. -/
def State.takenSamples (k : Nat) : List Sample :=
  ((List.range k).map fun i =>
    (⟨s.log.edge + s.sampleTime i, s.syncAt (s.sampleTime i)⟩ : Sample)).reverse

theorem State.takenSamples_succ (k : Nat) : s.takenSamples (k + 1) =
    ⟨s.log.edge + s.sampleTime k, s.syncAt (s.sampleTime k)⟩ :: s.takenSamples k := by
  simp [State.takenSamples, List.range_succ]

/-- Writing bit `i` of a word. -/
theorem writeBit_getLsbD (x : Word) {i : Nat} (hi : i < 32) (b : Bool) (p : Nat) :
    (if b then x ||| BitVec.twoPow 32 i else x &&& ~~~ BitVec.twoPow 32 i).getLsbD p =
      if p = i then b else x.getLsbD p := by
  by_cases hp : p = i
  · subst hp
    cases b <;> simp [hi]
  · have hne : i ≠ p := Ne.symm hp
    cases b with
    | true => simp [hp, hne]
    | false => simpa [hp, hne] using fun h => BitVec.lt_of_getLsbD h

variable {x y : RxData}

/-- Bit slot `i` of RECEIVE records its sample first, and then writes RXSHIFT (40_link.md R110, R111). -/
theorem State.rxAfter_receiveSlot (hi : i < w) (hy : s.rxAfter (receiveEvents w) x (3 * i + 1) = y)
    {b : Bool} (hb : s.syncAt (s.sampleTime i) = b) :
    s.rxAfter (receiveEvents w) x (3 * i + 2) =
      { y with bit := b, samples := ⟨s.log.edge + s.sampleTime i, b⟩ :: y.samples } ∧
    s.rxAfter (receiveEvents w) x (3 * i + 3) =
      { bit := b
        shift := if b then y.shift ||| BitVec.twoPow 32 i else y.shift &&& ~~~ BitVec.twoPow 32 i
        samples := ⟨s.log.edge + s.sampleTime i, b⟩ :: y.samples } ∧
    s.rxAfter (receiveEvents w) x (3 * i + 4) = s.rxAfter (receiveEvents w) x (3 * i + 3) := by
  have h0 := s.rxAfter_succ (receiveEvents_slot w i 0 hi (by norm_num) : _ = some _) x
  have h1 := s.rxAfter_succ (receiveEvents_slot w i 1 hi (by norm_num) : _ = some _) x
  have h2 := s.rxAfter_succ (receiveEvents_slot w i 2 hi (by norm_num) : _ = some _) x
  simp only [Nat.add_zero] at h0
  rw [hy, s.eventTime_receiveSlots hi.le, hb] at h0
  exact ⟨h0, h1.trans (congrArg (RxData.act _ _ · _) h0), h2⟩

/-- What the first `i` bit slots of RECEIVE leave (40_link.md R111). -/
theorem State.rxAfter_receiveSlots (hw : w ≤ 32) (hi : i ≤ w) :
    (s.rxAfter (receiveEvents w) x (3 * i + 1)).samples = s.takenSamples i ++ x.samples ∧
    ∀ p, (s.rxAfter (receiveEvents w) x (3 * i + 1)).shift.getLsbD p =
      if p < i then s.syncAt (s.sampleTime p) else x.shift.getLsbD p := by
  induction i with
  | zero => exact ⟨rfl, fun p => rfl⟩
  | succ i ih =>
    obtain ⟨hsamples, hshift⟩ := ih (by omega)
    obtain ⟨_, hstored, hacked⟩ := s.rxAfter_receiveSlot (x := x) hi rfl rfl
    rw [show 3 * (i + 1) + 1 = 3 * i + 4 by omega, hacked, hstored]
    refine ⟨?_, fun p => ?_⟩
    · rw [s.takenSamples_succ, List.cons_append, hsamples]
    · rw [writeBit_getLsbD _ (by omega), hshift]
      rcases Nat.lt_trichotomy p i with h | rfl | h
      · rw [if_neg (by omega), if_pos h, if_pos (by omega)]
      · rw [if_pos rfl, if_pos (by omega)]
      · rw [if_neg (by omega), if_neg (by omega), if_neg (by omega)]

/-- The last event of RECEIVE neither samples nor writes RXSHIFT. -/
theorem State.rxAfter_receiveEnd :
    s.rxAfter (receiveEvents w) x (3 * w + 2) = s.rxAfter (receiveEvents w) x (3 * w + 1) :=
  s.rxAfter_succ (receiveEvents_last w) x

end

/-- What a RECEIVE accepted in the coming cycle starts from: RXSHIFT is 0 (40_link.md R110). -/
def State.rxStart (s : State) : RxData := ⟨s.ctl.rxBit, 0, s.log.samples⟩

/-- The samples recorded after each step of bit slot `i`. -/
theorem State.rxAfter_receiveStep_samples (s : State) {w i q : Nat} (hw : w ≤ 32) (hi : i < w)
    (hq : q < 3) : (s.rxAfter (receiveEvents w) s.rxStart (3 * i + q + 2)).samples =
      s.takenSamples (i + 1) ++ s.log.samples := by
  obtain ⟨hbefore, _⟩ := s.rxAfter_receiveSlots (x := s.rxStart) hw hi.le
  obtain ⟨hsampled, hstored, hacked⟩ := s.rxAfter_receiveSlot (x := s.rxStart) hi rfl rfl
  rw [s.takenSamples_succ, List.cons_append]
  change _ = s.takenSamples i ++ s.log.samples at hbefore
  match q with
  | 0 => rw [Nat.add_zero, hsampled, hbefore]
  | 1 => rw [hstored, hbefore]
  | 2 => rw [hacked, hstored, hbefore]

section
variable {s : State} {w : Width} (h : s.Begins (s.linkCtl (.receive w))) {e : Event} {t r : Nat}
include h

/-- Through the hold of event `j` RECEIVE shows the lines of the events so far and their samples. -/
theorem State.Begins.shows_receiving {j k : Nat} {l : Lines}
    (he : (receiveEvents w.toNat)[j]? = some e)
    (ht : s.eventTime (receiveEvents w.toNat) j = t) (hr : r < s.waitLen e.wait)
    (hl : replayLines s.ctl.txShift ((receiveEvents w.toNat).take (j + 1)) s.lines = l)
    (hx : (s.rxAfter (receiveEvents w.toNat) s.rxStart (j + 1)).samples =
      s.takenSamples k ++ s.log.samples) :
    s.Shows (t + r) fun u => u.ctl.mode = .receiving ∧ u.lines = l ∧
      u.log.samples = s.takenSamples k ++ s.log.samples :=
  (h.shows_inHold he hr (congrArg (· + r) ht.symm)).imp fun _ hu =>
    ⟨hu.progress.mode, hu.progress.lines.trans hl,
      (congrArg RxData.samples hu.progress.rx).trans hx⟩

/-- Through the hold of step `q` of bit slot `i` RECEIVE shows that step's lines and `i + 1` samples. -/
theorem State.Begins.shows_receiveStep (low : s.lines = { Lines.low with dataOut := s.lines.dataOut })
    {i q : Nat} (hi : i < w.toNat) (he : (receiveSlot i)[q]? = some e)
    (ht : s.eventTime (receiveEvents w.toNat) (3 * i + q + 1) = t) (hr : r < s.waitLen e.wait) :
    s.Shows (t + r) fun u => u.ctl.mode = .receiving ∧
      u.lines = receiveLinesAfter q s.lines.dataOut ∧
      u.log.samples = s.takenSamples (i + 1) ++ s.log.samples := by
  have hq : q < 3 := (List.getElem?_eq_some_iff.mp he).1
  exact h.shows_receiving ((receiveEvents_slot w.toNat i q hi hq).trans he) ht hr
    (replayLines_receiveSlot hi (replayLines_receiveSlots low hi.le) hq)
    (s.rxAfter_receiveStep_samples w.isLt.le hi hq)

end

/-- Settles O40: the lines and samples after event 3i + q + 1 are those after step q of slot i, and its time
is the sum of the holds before it. -/
theorem receiveStepsLastTheirHolds : Obligations.ReceiveStepsLastTheirHolds := by
  intro s w hok hb hw hi d slot taken shows idle read
  have begins := State.begins_of_issues (i := .receive w) rfl hb (decide_eq_true hw) hi
  have low : s.lines = idle := hok.idle_lines (State.not_busy_iff.mp hb)
  have finish := replayLines_receiveEvents (w := w.toNat) (tx := s.ctl.txShift) low
  have finishTime : s.eventTime (receiveEvents w.toNat) (3 * w.toNat + 1) = slot w.toNat :=
    s.eventTime_receiveSlots le_rfl
  have hwidth : w.toNat ≤ 32 := by have := w.isLt; omega
  obtain ⟨samples, _⟩ := s.rxAfter_receiveSlots (x := s.rxStart) hwidth le_rfl
  rw [← s.rxAfter_receiveEnd] at samples
  refine ⟨fun r hr => ?start, fun i hi => ?slot, fun r hr => ?finish, ?done⟩
  case start =>
    exact Nat.zero_add r ▸ begins.shows_receiving (j := 0) (k := 0) rfl (s.eventTime_zero _) hr
      (congrArg (·.set .readEnable true) low) rfl
  case slot =>
    have time : s.eventTime (receiveEvents w.toNat) (3 * i + 1) = slot i :=
      s.eventTime_receiveSlots hi.le
    obtain ⟨time1, time2, _⟩ := s.eventTime_receiveSlot hi time
    exact ⟨fun r => begins.shows_receiveStep low hi (q := 0) rfl time,
      fun r => begins.shows_receiveStep low hi (q := 1) rfl time1,
      fun r => begins.shows_receiveStep low hi (q := 2) rfl time2⟩
  case finish =>
    have lines := congrArg (replayLines s.ctl.txShift · s.lines) (take_receiveEvents w.toNat)
    exact begins.shows_receiving (receiveEvents_last w.toNat) finishTime hr
      (lines.trans (finish.trans low)) samples
  case done =>
    have total : s.eventTime (receiveEvents w.toNat) (receiveEvents w.toNat).length = _ :=
      (receiveEvents_length w.toNat).symm ▸ s.eventTime_succ (receiveEvents_last w.toNat)
    refine (begins.shows_completed (total.trans (finishTime ▸ rfl)).symm).imp fun u hu =>
      ⟨hu.mode, hu.lines.trans (finish.trans low), hu.samples.trans ?_⟩
    exact (receiveEvents_length w.toNat).symm ▸ samples

/-- Settles O41: RXDATA is written at completion alone, from RXSHIFT, which the slots filled bit by bit. -/
theorem receiveAssemblesItsSamples : Obligations.ReceiveAssemblesItsSamples := by
  intro s w hb hw hi hn
  have begins := State.begins_of_issues (i := .receive w) rfl hb (decide_eq_true hw) hi
  have total : s.eventTime (receiveEvents w.toNat) (receiveEvents w.toNat).length =
      s.receiveCycles w.toNat := s.eventTime_eq_cycles (i := .receive w) rfl
  refine ⟨fun n hle => ⟨_, run_eq_afterEdges n s, ?_⟩, _, run_eq_afterEdges _ s, fun p => ?_⟩
  · cases n with
    | zero => rfl
    | succ n =>
      obtain ⟨_, progress⟩ := begins.progress (hle.trans_eq total.symm)
        (State.noReset_mono hn (by omega))
      exact progress.rxData
  · have hwidth : w.toNat ≤ 32 := by have := w.isLt; omega
    obtain ⟨_, hshift⟩ := s.rxAfter_receiveSlots (x := s.rxStart) hwidth le_rfl
    have done := (begins.completed (total ▸ hn)).rxData
    change State.rxData (s.afterEdges (s.eventTime (receiveEvents w.toNat)
      (receiveEvents w.toNat).length + 1)) =
        (s.rxAfter (receiveEvents w.toNat) s.rxStart (receiveEvents w.toNat).length).shift at done
    rw [total, receiveEvents_length, s.rxAfter_receiveEnd] at done
    rw [done, hshift]
    by_cases hp : p < w.toNat <;> simp [hp, State.rxStart]

/-- Settles O42: the assembled word has the bits of TXSHIFT modulo 2^w. -/
theorem echoedWordComesBack : Obligations.EchoedWordComesBack := by
  intro s w hb hw hi hn echo
  obtain ⟨_, t, hrun, hbits⟩ := receiveAssemblesItsSamples s w hb hw hi hn
  have hword : t.rxData = lowBits s.ctl.txShift w.toNat := by
    refine BitVec.eq_of_getLsbD_eq fun i _ => ?_
    rw [hbits, lowBits_getLsbD]
    by_cases hlt : i < w.toNat
    · rw [echo i hlt]
    · simp [hlt]
  exact ⟨t, hrun, by rw [hword, lowBits_toNat]⟩

/-! ## Upper bits of TXDATA -/

/-- The run shows one state after `n + 1` edges. -/
theorem State.Shows.afterEdges {s : State} {n : Nat} {P : State → Prop} (h : s.Shows n P)
    (hn : s.noReset (n + 1)) : P (s.afterEdges (n + 1)) := by
  obtain ⟨t, hrun, ht⟩ := h hn
  exact next_inj ((run_eq_afterEdges _ s).symm.trans hrun) ▸ ht

/-- Through a SEND of `w` bits, the bits of TXDATA at and above `w` make no difference to STATE and the
lines. -/
theorem State.Begins.shows_send_upperBits {s : State} {w : Width} {x : Word}
    (hs : s.Begins (s.linkCtl (.send w)))
    (hu : State.Begins { s with txData := x } (State.linkCtl { s with txData := x } (.send w)))
    (bits : ∀ i < w.toNat, x.getLsbD i = s.txData.getLsbD i) {n : Nat}
    (hn : n ≤ s.sendCycles w.toNat) : ∃ m l,
      s.Shows n (fun t => t.ctl.mode = m ∧ t.lines = l) ∧
      State.Shows { s with txData := x } n (fun t => t.ctl.mode = m ∧ t.lines = l) := by
  have replay : ∀ es, (∀ e ∈ es, e ∈ sendEvents w.toNat) →
      replayLines x es s.lines = replayLines s.txData es s.lines := fun es hes =>
    replayLines_congr (fun e he i hi =>
      bits i (s.linkCtl_txBit (i := .send w) rfl (hes e he) hi).2) s.lines
  have total : s.eventTime (sendEvents w.toNat) (sendEvents w.toNat).length =
      s.sendCycles w.toNat := s.eventTime_eq_cycles (i := .send w) rfl
  rcases Nat.lt_or_eq_of_le hn with hlt | rfl
  · obtain ⟨j, e, r, he, hr, hn⟩ := s.exists_hold (le_refl (sendEvents w.toNat).length)
      (hlt.trans_eq total.symm)
    exact ⟨_, _, hs.shows_hold he hr hn rfl,
      hu.shows_hold he hr hn (replay _ fun _ => List.mem_of_mem_take)⟩
  · exact ⟨_, _, hs.shows_end total.symm rfl, hu.shows_end total.symm (replay _ fun _ => id)⟩

/-- Settles O58: the two runs show the same lines at every edge, and so note the same changes. -/
theorem sendIgnoresUpperBits : Obligations.SendIgnoresUpperBits := by
  intro s w x n hb hw hi hn hr bits
  have hs := State.begins_of_issues (i := .send w) rfl hb (decide_eq_true hw) hi
  have hu := State.begins_of_issues (s := { s with txData := x }) (i := .send w) rfl hb
    (decide_eq_true hw) hi
  have agree : ∀ k ≤ n, (State.afterEdges { s with txData := x } k).lines = (s.afterEdges k).lines ∧
      (State.afterEdges { s with txData := x } k).ctl.mode = (s.afterEdges k).ctl.mode := by
    intro k hk
    cases k with
    | zero => exact ⟨rfl, rfl⟩
    | succ k =>
      obtain ⟨m, l, shown, shown'⟩ := hs.shows_send_upperBits hu bits (n := k) (by omega)
      have hrk := State.noReset_mono hr hk
      obtain ⟨hm, hl⟩ := shown.afterEdges hrk
      obtain ⟨hm', hl'⟩ := shown'.afterEdges hrk
      exact ⟨hl'.trans hl.symm, hm'.trans hm.symm⟩
  have trace := State.lineTrace_congr hr (u := { s with txData := x }) hr rfl rfl fun k hk =>
    (agree k hk).1
  exact ⟨_, _, run_eq_afterEdges n s, run_eq_afterEdges n _, (agree n le_rfl).1, trace,
    (agree n le_rfl).2⟩

end Sys2Proof.Machine
end

section
/-! PROOF. RECORD and CLEAR at their acceptance edge: the counts a RECORD leaves, what of its operand words
it sees, and the start of a session (41_analyzer.md R121 to R132). -/

namespace Sys2Proof.Machine

/-! ## Acceptance -/

theorem State.accept_inRange {s : State} (hb : s.busy = false) {p : Prop} [Decidable p] (hp : p)
    (run : State → State) : s.accept (decide p) run = .next (run s) := by
  rw [decide_eq_true hp, State.accept_idle hb]

theorem exec_record_accepted {s : State} {w : Width} (hb : s.busy = false) (hw : w ≤ s.ana.aw) :
    exec (.record w) s = .next (s.recordSample w) := State.accept_inRange hb hw _

theorem exec_clear_accepted {s : State} {w : Width} (hb : s.busy = false) (hw : w ≤ s.param.wmax) :
    exec (.clear w) s = .next (s.startSession w) := State.accept_inRange hb hw _

/-! ## CLEAR -/

/-- Settles O25: the accepted CLEAR leaves a fresh analyzer. -/
theorem clearStartsASession : Obligations.ClearStartsASession := by
  intro s w hb hw
  have hok := Analyzer.fresh_ok s.param.wmax w hw
  exact ⟨s.startSession w, exec_clear_accepted hb hw, rfl, rfl, Analyzer.fresh_perbitAt _ _,
    Analyzer.fresh_histAt _ _, rfl, rfl, hok.perbit_length, hok.hist_length⟩

/-! ## RECORD as a count -/

/-- No increment of a RECORD of `w` bits would overflow (41_analyzer.md R121). -/
def State.hasRoom (s : State) (w : Width) : Prop :=
  s.ana.wouldOverflow (s.mismatchMask w) (s.wrongCount w) w.toNat = false

/-- A RECORD has room where no counter of a mismatched position stands at its largest value. -/
theorem State.hasRoom_of_not_allOnes {s : State} {w : Width}
    (h : ∀ p < w.toNat, (s.mismatchMask w).getLsbD p = true →
      s.ana.perbitAt p ≠ BitVec.allOnes 32 ∧ s.ana.histAt (s.wrongCount w) p ≠ BitVec.allOnes 32) :
    s.hasRoom w := by
  rw [State.hasRoom, Bool.eq_false_iff, Ne, Analyzer.wouldOverflow_iff]
  rintro ⟨p, hp, hm, hfull⟩
  obtain ⟨hperbit, hhist⟩ := h p hp hm
  exact hfull.elim hperbit hhist

theorem State.recordSample_of_hasRoom {s : State} {w : Width} (room : s.hasRoom w) :
    s.recordSample w = { s with ana := s.ana.count (s.mismatchMask w) (s.wrongCount w) } :=
  if_neg (Bool.eq_false_iff.mp room)

/-- A RECORD without room shows in the fault record (60_exceptions.md R155, R161). -/
theorem State.hasRoom_of_same_faults {s : State} {w : Width}
    (h : (s.recordSample w).log.faults = s.log.faults) : s.hasRoom w := by
  rcases s.recordSample_cases w with ⟨_, e⟩ | ⟨room, _⟩
  · rw [e] at h
    exact absurd h (List.cons_ne_self _ _)
  · exact room

section
variable {s : State} {w : Width} {n : Nat}

/-- A mismatched position has its cell in every row of the tables. -/
theorem Analyzer.Ok.mismatch_lt (h : s.ana.Ok n) (hw : w ≤ s.ana.aw) {p : Nat}
    (hp : (s.mismatchMask w).getLsbD p = true) : p < n :=
  (mismatchMask_lt_width hp).trans_le (le_trans hw h.aw_le)

/-- Row k of HIST exists for the wrong-bit count k of every accepted RECORD. -/
theorem Analyzer.Ok.wrongCount_le_wmax (h : s.ana.Ok n) (hw : w ≤ s.ana.aw) : s.wrongCount w ≤ n :=
  (wrongCount_le s w).trans (le_trans hw h.aw_le)

/-- PERBIT grows by the mismatch mask, bit by bit (41_analyzer.md R121). -/
theorem Analyzer.Ok.record_perbit_toNat (h : s.ana.Ok n) (hw : w ≤ s.ana.aw) (room : s.hasRoom w)
    (p : Nat) : ((s.ana.count (s.mismatchMask w) (s.wrongCount w)).perbitAt p).toNat =
      (s.ana.perbitAt p).toNat + ((s.mismatchMask w).getLsbD p).toNat := by
  rw [count_perbit_toNat room, h.perbit_length]
  cases hm : (s.mismatchMask w).getLsbD p with
  | true => simp [h.mismatch_lt hw hm]
  | false => simp

/-- Row k of HIST, for the wrong-bit count k, grows by the mismatch mask, and no other row changes
(41_analyzer.md R121). -/
theorem Analyzer.Ok.record_hist_toNat (h : s.ana.Ok n) (hw : w ≤ s.ana.aw) (room : s.hasRoom w)
    (j p : Nat) : ((s.ana.count (s.mismatchMask w) (s.wrongCount w)).histAt j p).toNat =
      (s.ana.histAt j p).toNat +
        if j = s.wrongCount w then ((s.mismatchMask w).getLsbD p).toNat else 0 := by
  have hrow := h.wrongCount_le_wmax hw
  rw [count_hist_toNat room, h.hist_length, h.hist_row_length hrow]
  cases hm : (s.mismatchMask w).getLsbD p with
  | true => simp [h.mismatch_lt hw hm, Nat.lt_succ_of_le hrow]
  | false => simp

end

/-- Settles O23: no counter at its largest value is what gives the RECORD room. -/
theorem recordCountsTheMismatch : Obligations.RecordCountsTheMismatch := by
  intro s w hb hw hok m k hmax
  have room : s.hasRoom w := State.hasRoom_of_not_allOnes hmax
  refine ⟨{ s with ana := s.ana.count m k }, ?_, rfl, rfl, hok.record_perbit_toNat hw room,
    hok.record_hist_toNat hw room, rfl, (hok.count hw room).lastCount_eq⟩
  rw [exec_record_accepted hb hw]
  exact congrArg _ (State.recordSample_of_hasRoom room)

/-! ## Row sums -/

theorem sum_toNat_eq_countP {α : Type} (q : α → Bool) (l : List α) :
    (l.map fun i => (q i).toNat).sum = l.countP q := by
  induction l with
  | nil => rfl
  | cons i l ih => cases hq : q i <;> simp [hq, ih, Nat.add_comm]

/-- A word's bits below `n` sum to the number of its ones, if `n` lies above all of them. -/
theorem sum_range_getLsbD {m : Word} {n : Nat} (hn : n ≤ 32)
    (h : ∀ p, m.getLsbD p = true → p < n) :
    ((List.range n).map fun p => (m.getLsbD p).toNat).sum = popcount m := by
  obtain ⟨d, hd⟩ := Nat.exists_eq_add_of_le hn
  have above : ((List.range d).map (n + ·)).countP (fun p => m.getLsbD p) = 0 := by
    rw [List.countP_eq_zero]
    intro p hp hm
    obtain ⟨i, _, rfl⟩ := List.mem_map.mp hp
    exact absurd (h _ hm) (Nat.not_lt.mpr (Nat.le_add_right n i))
  have halves : List.range 32 = List.range n ++ (List.range d).map (n + ·) := by
    rw [hd, List.range_add]
  rw [sum_toNat_eq_countP, popcount, halves, List.countP_append, above, Nat.add_zero]

/-- Settles O31: row k grows by the mismatch mask, whose ones are k. -/
theorem recordAddsKToRowK : Obligations.RecordAddsKToRowK := by
  intro s t w hb hw hok h _ hfaults j
  have ht : t = s.recordSample w := next_inj ((exec_record_accepted hb hw).symm.trans h)
  have room : s.hasRoom w := State.hasRoom_of_same_faults (ht ▸ hfaults)
  have ones := sum_range_getLsbD s.param.wmax.isLt.le fun _ => hok.mismatch_lt hw
  rw [ht, State.recordSample_of_hasRoom room]
  simp only [hok.record_hist_toNat hw room, List.sum_map_add]
  split
  · rw [ones, State.wrongCount]
  · simp

/-! ## Words without a mismatch -/

theorem bumpFrom_zero (p : Nat) (r : List (BitVec 32)) : bumpFrom 0 p r = r := by
  induction r generalizing p with
  | nil => rfl
  | cons c r ih => rw [bumpFrom, ih, if_neg (by simp)]

/-- Counting no mismatch writes the LAST registers alone (41_analyzer.md R125). -/
theorem Analyzer.count_zero (a : Analyzer) :
    a.count 0 0 = { a with lastMask := 0, lastCount := 0 } := by
  have row : a.hist.set 0 (a.hist.getD 0 []) = a.hist := by cases a.hist <;> rfl
  rw [Analyzer.count, bumpFrom_zero, bumpFrom_zero, row]
  rfl

theorem mismatchMask_eq_zero {s : State} {w : Width}
    (h : ∀ p < w.toNat, s.sampleRecv.getLsbD p = s.sampleExp.getLsbD p) : s.mismatchMask w = 0 := by
  refine BitVec.eq_of_getLsbD_eq fun p _ => ?_
  rw [mismatchMask_getLsbD]
  by_cases hp : p < w.toNat
  · simp [h p hp]
  · simp [hp]

/-- Settles O29: a mask of 0 has no counter to increment, so there is room, and nothing is counted. -/
theorem equalWordsChangeNoCounter : Obligations.EqualWordsChangeNoCounter := by
  intro s w hb hw hagree
  have hm : s.mismatchMask w = 0 := mismatchMask_eq_zero hagree
  have hk : s.wrongCount w = 0 := by rw [State.wrongCount, hm]; decide
  have room : s.hasRoom w := State.hasRoom_of_not_allOnes fun p _ hp => by simp [hm] at hp
  rw [exec_record_accepted hb hw, State.recordSample_of_hasRoom room, hm, hk, Analyzer.count_zero]

/-! ## The operand words -/

/-- The state with other words in SAMPLE_RECV and SAMPLE_EXP. -/
def State.withOperands (r x : Word) (s : State) : State := { s with sampleRecv := r, sampleExp := x }

/-- A command that treats other operand words alike when it runs is accepted or refused alike with them. -/
theorem State.accept_withOperands {r x : Word} {ok : Bool} {s t : State} {run : State → State}
    (hrun : run (s.withOperands r x) = (run s).withOperands r x) (h : s.accept ok run = .next t) :
    (s.withOperands r x).accept ok run = .next (t.withOperands r x) := by
  have hbusy : (s.withOperands r x).busy = s.busy := rfl
  rcases s.accept_cases ok run with ⟨hb, e⟩ | ⟨hb, rfl, e⟩ | ⟨hb, rfl, e⟩ <;>
    obtain rfl := next_inj (e.symm.trans h)
  · exact if_pos (hbusy.trans hb)
  · rw [State.accept_idle (hbusy.trans hb), hrun]
  · rw [State.accept, if_neg (by simp [hbusy, hb])]
    rfl

theorem State.mismatchMask_withOperands {r x : Word} {s : State} {w : Width}
    (h : ∀ p < w.toNat, r.getLsbD p = s.sampleRecv.getLsbD p ∧ x.getLsbD p = s.sampleExp.getLsbD p) :
    (s.withOperands r x).mismatchMask w = s.mismatchMask w := by
  refine BitVec.eq_of_getLsbD_eq fun p _ => ?_
  rw [mismatchMask_getLsbD, mismatchMask_getLsbD]
  by_cases hp : p < w.toNat
  · obtain ⟨hr, hx⟩ := h p hp
    simp [State.withOperands, hr, hx]
  · simp [hp]

/-- RECORD sees its operand words through the mismatch mask alone. -/
theorem State.recordSample_withOperands {r x : Word} {s : State} {w : Width}
    (h : (s.withOperands r x).mismatchMask w = s.mismatchMask w) :
    (s.withOperands r x).recordSample w = (s.recordSample w).withOperands r x := by
  have hana : (s.withOperands r x).ana = s.ana := rfl
  unfold State.recordSample State.wrongCount
  rw [h, hana]
  split <;> rfl

/-- Settles O30: words that agree below bit `w` have the same mismatch mask. -/
theorem recordIgnoresUpperBits : Obligations.RecordIgnoresUpperBits := by
  intro s w r x hagree t h
  exact State.accept_withOperands
    (State.recordSample_withOperands (State.mismatchMask_withOperands hagree)) h

end Sys2Proof.Machine
end

section
/-! PROOF. The errors of 60_exceptions.md: what raises them, what they change, what clears them, and the quiet
edges that raise none. -/

namespace Sys2Proof.Machine

/-! ## The next state of an edge -/

/-- Settles O6: no access stops, so an edge always has the state after it. -/
theorem everyEdgeHasANextState : Obligations.EveryEdgeHasANextState :=
  fun s => ⟨s.afterEdge, step_eq_afterEdge s⟩

/-- Settles O7: with no access and no running command the rest of the edge is the inputs' alone, and the
lines have no change to note. -/
theorem quietEdgeInIdleKeepsTheState : Obligations.QuietEdgeInIdleKeepsTheState := by
  intro s hb hcycle
  rw [step_of_busAccess hcycle rfl, State.finishEdge, if_neg (by simp [hb])]
  simp only [State.shiftSync, State.recordLines, Lines.changes_self]
  rfl

/-! ## Refusals and Ovf -/

/-- Settles O26: every command's own check of STATE refuses it. -/
theorem commandsWhileBusyAreRefused : Obligations.CommandsWhileBusyAreRefused :=
  fun i s hb => (exec_busy i hb).trans (congrArg _ (s.raiseCmdErr_eq_refusedWith _))

theorem State.recordSample_of_overflow {s : State} {w : Width}
    (full : s.ana.wouldOverflow (s.mismatchMask w) (s.wrongCount w) w.toNat = true) :
    s.recordSample w = s.raiseOvf :=
  if_pos full

/-- A differing position whose counter stands at its largest value leaves the RECORD no room. -/
theorem State.wouldOverflow_of_allOnes {s : State} {w : Width} {p : Nat} (hp : p < w.toNat)
    (hdiff : s.sampleRecv.getLsbD p ≠ s.sampleExp.getLsbD p)
    (hfull : s.ana.perbitAt p = BitVec.allOnes 32 ∨
      s.ana.histAt (s.wrongCount w) p = BitVec.allOnes 32) :
    s.ana.wouldOverflow (s.mismatchMask w) (s.wrongCount w) w.toNat = true :=
  (Analyzer.wouldOverflow_iff ..).mpr ⟨p, hp, by simp [hp, hdiff], hfull⟩

/-- Settles O24: the accepted RECORD has no room, and raises Ovf instead of counting. -/
theorem recordOverflowSetsOnlyOvf : Obligations.RecordOverflowSetsOnlyOvf := by
  intro s w p hb hw hp hdiff hfull
  rw [exec_record_accepted hb hw,
    State.recordSample_of_overflow (State.wouldOverflow_of_allOnes hp hdiff hfull)]
  rfl

/-- A host access raises at most one fault. -/
theorem State.ErrorEffect.faults_grow {s t : State} (h : s.ErrorEffect t) :
    t.log.faults = s.log.faults ∨ ∃ f, t.log.faults = ⟨s.log.edge, f⟩ :: s.log.faults := by
  cases h with
  | same _ hf => exact .inl hf
  | written _ _ hf => exact .inl hf
  | refused c _ hf => exact .inr ⟨_, hf⟩
  | overflow _ hf => exact .inr ⟨_, hf⟩

/-- Settles O51: of the parts of an edge only the host's access raises a fault. -/
theorem faultRecordOnlyGrows : Obligations.FaultRecordOnlyGrows := by
  intro s t h
  rcases step_inv h with ⟨_, rfl⟩ | ⟨_, u, hu, rfl⟩
  · obtain ⟨log, e, hfaults⟩ := s.resetEdge_eq s.hostCycle.bus
    exact .inl (by rw [e]; exact hfaults)
  · rw [State.finishEdge_faults]
    exact (State.busAccess_errors hu).faults_grow

/-! ## Register writes -/

/-- A host write of `v` to an address that reaches register `r` (20_memory.md R54). -/
theorem State.busAccess_write {a : Addr} {r : Reg} (ha : regAt a = r) (v : Word) (s : State) :
    s.busAccess (.write a v) = s.writeReg r v := by
  rw [State.busAccess, ha]

/-- While a command runs, the data registers that the host writes and the hold registers refuse the write
with cause 5 (60_exceptions.md R152). -/
theorem State.writeReg_busy {s : State} (hb : s.busy = true) {r : Reg}
    (hr : r ∈ [.txData, .sampleRecv, .sampleExp] ∨ ∃ h, r = .hold h) (v : Word) :
    s.writeReg r v = .next (s.refusedWith .busyWrite) := by
  have refused : ∀ u, (.next (s.guardedWrite u) : Host.Outcome State Fault Refusal) =
      .next (s.refusedWith .busyWrite) := fun u => congrArg _ (State.guardedWrite_busy hb u)
  rcases hr with hr | ⟨h, rfl⟩
  · simp only [List.mem_cons, List.not_mem_nil, or_false] at hr
    rcases hr with rfl | rfl | rfl <;> exact refused _
  · exact refused _

/-- Settles O12: the guard on STATE stands before the data and hold registers, and before no other. -/
theorem registerWritesAreRefusedOnlyWhileBusy : Obligations.RegisterWritesAreRefusedOnlyWhileBusy := by
  intro s a v
  refine ⟨fun hb hr => State.writeReg_busy hb hr v, fun hb => ?idle,
    fun ha => ⟨_, State.busAccess_write ha v s⟩, fun hr => State.writeReg_ignored hr v s⟩
  have stored : ∀ u, (.next (s.guardedWrite u) : Host.Outcome State Fault Refusal) = .next u :=
    fun u => congrArg _ (State.guardedWrite_idle hb u)
  refine ⟨fun ha => (State.busAccess_write ha v s).trans (stored _),
    fun ha => (State.busAccess_write ha v s).trans (stored _),
    fun ha => (State.busAccess_write ha v s).trans (stored _), fun h ha => ?hold⟩
  refine ⟨_, (State.busAccess_write ha v s).trans (State.writeReg_hold_idle hb h v), ?_, fun g hg => ?_⟩
  · rw [Holds.get_set, if_pos rfl]
  · rw [Holds.get_set, if_neg hg]

end Sys2Proof.Machine
end

section
/-! PROOF. What a host access does depends on BUSY, WMAX and AW alone, so neither the error bits of STATUS
(60_exceptions.md R160) nor what DataIn brings (R157) decides anything of it. -/

namespace Sys2Proof.Machine

/-! ## The effect of an access -/

/-- What a command does where it is not refused. -/
def State.commanded (i : Instr) (s : State) : State :=
  match i with
  | .reset | .send _ | .receive _ => s.start (s.linkCtl i)
  | .record w => s.recordSample w
  | .clear w => s.startSession w

theorem exec_accepted {i : Instr} {s : State} (hb : s.busy = false) (hw : i.width ≤ s.widthBound i) :
    exec i s = .next (s.commanded i) := by
  obtain ⟨hreset, hsend, hreceive⟩ := exec_link_accepted s hb
  cases i with
  | reset => exact hreset
  | send w => exact hsend w hw
  | receive w => exact hreceive w hw
  | record w => exact exec_record_accepted hb hw
  | clear w => exact exec_clear_accepted hb hw

/-- What a host access can do to the state it meets. -/
inductive AccessEffect : (State → State) → Prop where
  | same : AccessEffect id
  | read (a : Addr) : AccessEffect (State.recordRead a)
  | refused (c : Cause) : AccessEffect (State.refusedWith c)
  | status (v : Word) : AccessEffect (State.writeStatus v)
  | txData (v : Word) : AccessEffect fun s => { s with txData := v }
  | sampleRecv (v : Word) : AccessEffect fun s => { s with sampleRecv := v }
  | sampleExp (v : Word) : AccessEffect fun s => { s with sampleExp := v }
  | hold (r : HoldReg) (v : BitVec 16) : AccessEffect fun s => { s with holds := s.holds.set r v }
  | command (i : Instr) : AccessEffect (State.commanded i)

/-- The two states agree in everything that an access is judged by (30_encoding.md R77, 60_exceptions.md
R152). -/
structure State.JudgedAlike (s u : State) : Prop where
  busy : u.busy = s.busy
  wmax : u.param.wmax = s.param.wmax
  aw : u.ana.aw = s.ana.aw

theorem State.JudgedAlike.widthBound {s u : State} (h : s.JudgedAlike u) (i : Instr) :
    u.widthBound i = s.widthBound i := by
  cases i with
  | reset => rfl
  | record => exact h.aw
  | send | receive | clear => exact h.wmax

/-- BUSY, WMAX and AW decide between the two refusals of a command and its acceptance. -/
theorem exec_effect (i : Instr) (s : State) :
    ∃ run, AccessEffect run ∧ ∀ u, s.JudgedAlike u → exec i u = .next (run u) := by
  cases hb : s.busy with
  | true => exact ⟨_, .refused .busyCmd, fun u hu => commandsWhileBusyAreRefused i u (hu.busy.trans hb)⟩
  | false =>
    by_cases hw : i.width ≤ s.widthBound i
    · exact ⟨_, .command i, fun u hu => exec_accepted (hu.busy.trans hb) (hu.widthBound i ▸ hw)⟩
    · exact ⟨_, .refused .badWidth, fun u hu =>
        exec_widthTooLarge (hu.busy.trans hb) (hu.widthBound i ▸ BitVec.not_le.mp hw)⟩

/-- The word's own checks look at no state at all. -/
theorem State.issueCommand_effect (v : Word) (s : State) :
    ∃ run, AccessEffect run ∧ ∀ u, s.JudgedAlike u → u.issueCommand v = .next (run u) := by
  cases hd : decode v with
  | ok i =>
    obtain ⟨run, heffect, hrun⟩ := exec_effect i s
    exact ⟨run, heffect, fun u hu => (u.issueCommand_of_decode hd).trans (hrun u hu)⟩
  | error e =>
    cases hb : s.busy with
    | true => exact ⟨_, .refused .busyCmd, fun u hu => State.issueCommand_busy (hu.busy.trans hb) v⟩
    | false =>
      exact ⟨_, .refused (decodeCause e), fun u hu => State.issueCommand_of_error (hu.busy.trans hb) hd⟩

theorem State.guardedWrite_effect (s : State) {store : State → State} (hstore : AccessEffect store) :
    ∃ run, AccessEffect run ∧ ∀ u, s.JudgedAlike u → u.guardedWrite (store u) = run u := by
  cases hb : s.busy with
  | true => exact ⟨_, .refused .busyWrite, fun u hu => State.guardedWrite_busy (hu.busy.trans hb) _⟩
  | false => exact ⟨_, hstore, fun u hu => State.guardedWrite_idle (hu.busy.trans hb) _⟩

theorem State.writeReg_effect (r : Reg) (v : Word) (s : State) :
    ∃ run, AccessEffect run ∧ ∀ u, s.JudgedAlike u → u.writeReg r v = .next (run u) := by
  have guarded : ∀ {store : State → State}, AccessEffect store → ∃ run, AccessEffect run ∧
      ∀ u, s.JudgedAlike u → (.next (u.guardedWrite (store u)) : Host.Outcome State Fault Refusal) =
        .next (run u) := fun hstore => by
    obtain ⟨run, heffect, hrun⟩ := s.guardedWrite_effect hstore
    exact ⟨run, heffect, fun u hu => congrArg _ (hrun u hu)⟩
  cases r with
  | cmd => exact s.issueCommand_effect v
  | status => exact ⟨_, .status v, fun _ _ => rfl⟩
  | txData => exact guarded (.txData v)
  | sampleRecv => exact guarded (.sampleRecv v)
  | sampleExp => exact guarded (.sampleExp v)
  | hold h => exact guarded (.hold h _)
  | _ => exact ⟨_, .same, fun _ _ => rfl⟩

/-- An access has the same effect on all states that it judges alike. -/
theorem State.busAccess_effect (op : BusOp) (s : State) :
    ∃ run, AccessEffect run ∧ ∀ u, s.JudgedAlike u → u.busAccess op = .next (run u) := by
  cases op with
  | none => exact ⟨_, .same, fun _ _ => rfl⟩
  | read a => exact ⟨_, .read a, fun _ _ => rfl⟩
  | write a v => exact s.writeReg_effect (regAt a) v

/-! ## The error bits -/

/-- RECORD does not look at STATUS. -/
theorem State.recordSample_withStatus (w : Width) (f : Status) (s : State) :
    ∃ g, State.recordSample w { s with status := f } = { s.recordSample w with status := g } := by
  rcases s.recordSample_cases w with ⟨full, e⟩ | ⟨room, e⟩ <;> rw [e]
  · exact ⟨_, State.recordSample_of_overflow full⟩
  · exact ⟨f, State.recordSample_of_hasRoom room⟩

/-- The error bits change nothing of what an access does but what a read of STATUS returns (60_exceptions.md
R160). -/
theorem AccessEffect.withStatus {run : State → State} (h : AccessEffect run) (f : Status) (s : State) :
    ∃ g reads, run { s with status := f } =
      { run s with status := g, log := { (run s).log with reads := reads } } := by
  cases h with
  | read a => exact ⟨f, _, rfl⟩
  | command i =>
    cases i with
    | record w =>
      obtain ⟨g, hg⟩ := s.recordSample_withStatus w f
      exact ⟨g, (s.recordSample w).log.reads, hg⟩
    | _ => exact ⟨f, s.log.reads, rfl⟩
  | _ => exact ⟨_, s.log.reads, rfl⟩

/-- A refusal keeps the first cause (60_exceptions.md R150). -/
theorem Status.refusing_of_cmdErr {f : Status} (h : f.cmdErr = true) (c : Cause) : f.refusing c = f := by
  cases f
  cases h
  rfl

/-- Settles O14: the STATUS write and the refusal by their definitions; and the error bits are no part of
what an access is judged by. -/
theorem errorBitsAreClearedAndBlockNothing : Obligations.ErrorBitsAreClearedAndBlockNothing := by
  refine ⟨fun s a v ha => State.busAccess_write ha v s,
    fun s c => ⟨fun h => Status.refusing_of_cmdErr h c, fun h => ?first⟩, fun op s t f ht => ?access⟩
  case first => simp [Status.refusing, h]
  case access =>
    obtain ⟨run, heffect, hrun⟩ := s.busAccess_effect op
    obtain rfl := next_inj ((hrun s ⟨rfl, rfl, rfl⟩).symm.trans ht)
    obtain ⟨g, reads, hg⟩ := heffect.withStatus f s
    refine ⟨_, hrun { s with status := f } ⟨rfl, rfl, rfl⟩, ?_⟩
    rw [hg]
    exact ⟨rfl, rfl, rfl, rfl, rfl, rfl, rfl, rfl, rfl⟩

/-! ## What DataIn brings -/

/-- The coming pin values, the synchroniser, what RECEIVE makes of the samples, and the records of the
samples and of what reads returned. -/
structure DataInSide where
  pins : List Bool
  sync : List Bool
  rxShift : Word
  rxBit : Bool
  rxData : Word
  samples : List Sample
  reads : List ReadRecord

/-- The state with another data-in side. -/
def State.withDataIn (d : DataInSide) (s : State) : State :=
  { s with
    pins := d.pins, sync := d.sync, rxData := d.rxData
    ctl := { s.ctl with rxShift := d.rxShift, rxBit := d.rxBit }
    log := { s.log with samples := d.samples, reads := d.reads } }

/-- A change of the state that does not let the data-in side reach anything outside it. -/
def KeepsDataInApart (f : State → State) : Prop :=
  ∀ (d : DataInSide) (s : State), ∃ e, f (s.withDataIn d) = (f s).withDataIn e

theorem KeepsDataInApart.comp {f g : State → State} (hg : KeepsDataInApart g)
    (hf : KeepsDataInApart f) : KeepsDataInApart fun s => g (f s) := fun d s => by
  obtain ⟨e, he⟩ := hf d s
  obtain ⟨e', he'⟩ := hg e (f s)
  exact ⟨e', (congrArg g he).trans he'⟩

theorem State.recordSample_dataIn (w : Width) : KeepsDataInApart (State.recordSample w) := fun d s => by
  rcases s.recordSample_cases w with ⟨full, e⟩ | ⟨room, e⟩ <;> rw [e]
  · exact ⟨d, State.recordSample_of_overflow full⟩
  · exact ⟨d, State.recordSample_of_hasRoom room⟩

theorem State.commanded_dataIn (i : Instr) : KeepsDataInApart (State.commanded i) := by
  cases i with
  | record w => exact State.recordSample_dataIn w
  | receive w => exact fun d _ => ⟨{ d with rxShift := 0 }, rfl⟩
  | _ => exact fun d _ => ⟨d, rfl⟩

/-- A read may return something of the data-in side, to the host alone. -/
theorem State.recordRead_dataIn (a : Addr) : KeepsDataInApart (State.recordRead a) := fun d s =>
  ⟨{ d with reads := ⟨s.log.edge, a, (s.withDataIn d).read a⟩ :: d.reads }, rfl⟩

theorem AccessEffect.dataIn {run : State → State} (h : AccessEffect run) : KeepsDataInApart run := by
  cases h with
  | read a => exact State.recordRead_dataIn a
  | command i => exact State.commanded_dataIn i
  | _ => exact fun d _ => ⟨d, rfl⟩

theorem State.perform_dataIn (a : Action) : KeepsDataInApart (State.perform a) := fun d s => by
  cases a with
  | drive | txBit => exact ⟨d, rfl⟩
  | sampleBit i =>
    exact ⟨{ d with
      rxBit := (s.withDataIn d).dataInSync
      samples := ⟨s.log.edge, (s.withDataIn d).dataInSync⟩ :: d.samples }, rfl⟩
  | storeAndAck i =>
    exact ⟨{ d with rxShift := if d.rxBit then d.rxShift ||| BitVec.twoPow 32 i
      else d.rxShift &&& ~~~ BitVec.twoPow 32 i }, rfl⟩

theorem State.startHold_dataIn (w : Wait) : KeepsDataInApart (State.startHold w) :=
  fun d s => ⟨d, by cases w <;> rfl⟩

theorem State.complete_dataIn : KeepsDataInApart State.complete := fun d s =>
  ⟨{ d with rxData := if s.ctl.mode = .receiving then d.rxShift else d.rxData }, rfl⟩

/-- Which event is next is no matter of what was sampled (40_link.md R94, R109). -/
theorem State.fire_dataIn : KeepsDataInApart State.fire := fun d s => by
  have hnext : (s.withDataIn d).program[(s.withDataIn d).ctl.evt]? = s.program[s.ctl.evt]? := rfl
  unfold State.fire
  rw [hnext]
  cases s.program[s.ctl.evt]? with
  | none => exact State.complete_dataIn d s
  | some e => exact (State.startHold_dataIn e.wait).comp (State.perform_dataIn e.act) d s

theorem State.advance_dataIn : KeepsDataInApart State.advance := fun d s => by
  have hhold : (s.withDataIn d).ctl.holdCnt = s.ctl.holdCnt := rfl
  unfold State.advance
  rw [hhold]
  split
  · exact State.fire_dataIn d s
  · exact ⟨d, rfl⟩

theorem State.shiftSync_dataIn : KeepsDataInApart State.shiftSync := fun d s =>
  ⟨{ d with sync := ((s.withDataIn d).pin :: d.sync).take d.sync.length }, rfl⟩

theorem State.recordLines_dataIn (old : Lines) : KeepsDataInApart (State.recordLines old) :=
  fun d _ => ⟨d, rfl⟩

theorem State.endCycle_dataIn : KeepsDataInApart State.endCycle := fun d _ =>
  ⟨{ d with pins := d.pins.tail }, rfl⟩

theorem State.finishEdge_dataIn (s : State) : KeepsDataInApart s.finishEdge := by
  have controller : KeepsDataInApart fun t => if s.busy then t.advance else t := by
    split
    · exact State.advance_dataIn
    · exact fun d _ => ⟨d, rfl⟩
  exact State.endCycle_dataIn.comp ((State.recordLines_dataIn s.lines).comp
    (State.shiftSync_dataIn.comp controller))

theorem State.blockReset_dataIn : KeepsDataInApart State.blockReset := fun d s =>
  ⟨{ d with sync := syncReset s.param.syncStages, rxShift := 0, rxBit := false, rxData := 0 }, rfl⟩

theorem State.resetEdge_dataIn (op : BusOp) : KeepsDataInApart (State.resetEdge op) := fun d s => by
  have access : KeepsDataInApart (State.resetAccess op) := by
    cases op with
    | read a => exact State.recordRead_dataIn a
    | none | write => exact fun d _ => ⟨d, rfl⟩
  exact (State.endCycle_dataIn.comp ((State.recordLines_dataIn s.lines).comp
    (access.comp State.blockReset_dataIn))) d s

/-- One edge, block reset or not, keeps the data-in side apart. -/
theorem State.afterEdge_dataIn : KeepsDataInApart State.afterEdge := fun d s => by
  have hcycle : (s.withDataIn d).hostCycle = s.hostCycle := rfl
  rcases step_inv (step_eq_afterEdge s) with ⟨hr, e⟩ | ⟨hr, t, ht, e⟩
  · have hreset : step (s.withDataIn d) = .next ((s.withDataIn d).resetEdge s.hostCycle.bus) := by
      rw [step, State.clockEdge, hcycle, if_pos hr]
    rw [e, afterEdge_of_step hreset]
    exact State.resetEdge_dataIn s.hostCycle.bus d s
  · obtain ⟨run, heffect, hrun⟩ := s.busAccess_effect s.hostCycle.bus
    obtain rfl := next_inj ((hrun s ⟨rfl, rfl, rfl⟩).symm.trans ht)
    have hquiet : (s.withDataIn d).hostCycle = { rst := false, bus := s.hostCycle.bus } := by
      rw [hcycle, ← hr]
    rw [e, afterEdge_of_step (step_of_busAccess hquiet (hrun (s.withDataIn d) ⟨rfl, rfl, rfl⟩))]
    exact (State.finishEdge_dataIn s).comp heffect.dataIn d s

theorem State.afterEdges_dataIn (n : Nat) : KeepsDataInApart fun s => s.afterEdges n := by
  induction n with
  | zero => exact fun d _ => ⟨d, rfl⟩
  | succ n ih => exact ih.comp State.afterEdge_dataIn

/-- Settles O56: every edge keeps the data-in side apart, and nothing of it is among what is compared. -/
theorem dataInCannotSteer : Obligations.DataInCannotSteer := by
  intro s u pins sync rx rxData b samples reads n hu
  obtain ⟨e, he⟩ := State.afterEdges_dataIn n ⟨pins, sync, rx, b, rxData, samples, reads⟩ s
  have hv : u.afterEdges n = (s.afterEdges n).withDataIn e := (congrArg (State.afterEdges · n) hu).trans he
  refine ⟨_, _, run_eq_afterEdges n s, run_eq_afterEdges n u, ?_⟩
  rw [hv]
  exact ⟨rfl, rfl, rfl, rfl, rfl, rfl, rfl, rfl⟩

end Sys2Proof.Machine
end

section
/-! PROOF. 70_reset_and_hazards.md: block reset and its values (R180 to R182), the durations of the commands
(R191), and the line trace (R193). -/

namespace Sys2Proof.Machine

/-! ## Block reset -/

@[simp] theorem Lines.low_get (l : Line) : Lines.low.get l = false := by
  cases l <;> rfl

/-- The defaults of the hold registers (10_state.md R33). -/
theorem Holds.reset_get (h : HoldReg) : Holds.reset.get h =
    if h = .rstHi then 15 else if h ∈ [HoldReg.txStart, .txEnd, .rxStart] then 10 else 5 := by
  cases h <;> rfl

theorem step_of_rst {s : State} (hr : s.hostCycle.rst = true) :
    step s = .next (s.resetEdge s.hostCycle.bus) := by
  rw [step, State.clockEdge, if_pos hr]

/-- What a register reads as does not depend on the host's coming cycles. -/
theorem State.read_withHost (s : State) (host : List HostCycle) (a : Addr) :
    State.read { s with host := host } a = s.read a := by
  unfold State.read
  cases regAt a <;> rfl

/-- The edge of block reset notes a read of its cycle with the reset value (log entry 10). -/
theorem State.resetEdge_reads_of_read (a : Addr) (s : State) :
    (s.resetEdge (.read a)).log.reads = ⟨s.log.edge, a, s.blockReset.read a⟩ :: s.log.reads := rfl

theorem State.resetEdge_reads_of_no_read {op : BusOp} (h : ∀ a, op ≠ .read a) (s : State) :
    (s.resetEdge op).log.reads = s.log.reads := by
  cases op with
  | read a => exact absurd rfl (h a)
  | none | write => rfl

/-- Settles O18: each register of the reset state holds its constant. -/
theorem resetStateHasTheResetValues : Obligations.ResetStateHasTheResetValues := by
  have tens : ∀ h ∈ [HoldReg.txStart, .txEnd, .rxStart], Holds.reset.get h = 10 := by decide
  have fives : ∀ h ∈ [HoldReg.txSettle, .latchHi, .latchLo, .bclkHi, .bclkLo, .rxSample, .ackHi, .ackLo,
      .rxEnd], Holds.reset.get h = 5 := by decide
  exact ⟨rfl, rfl, rfl, rfl, rfl, rfl, rfl, Lines.low_get, rfl, rfl, rfl, rfl, rfl, tens, fives,
    rfl, rfl, rfl, rfl, rfl, Analyzer.fresh_perbitAt _ _, Analyzer.fresh_histAt _ _, rfl, rfl, rfl, rfl,
    rfl, State.blockReset_param⟩

/-- Settles O19: the edge is a block reset in everything but the inputs and the record, and of the record
only a read of this cycle and the changed lines are new. -/
theorem blockResetOverridesEverything : Obligations.BlockResetOverridesEverything := by
  intro s hr
  refine ⟨_, step_of_rst hr, ?_⟩
  generalize s.hostCycle.bus = op
  have samples := s.resetEdge_samples op
  have read : ∀ a, op = .read a → (s.resetEdge op).log.reads =
      ⟨s.log.edge, a, State.read { s.resetEdge op with pins := s.pins, log := s.log } a⟩ ::
        s.log.reads := by
    rintro a rfl
    rw [State.resetEdge_reads_of_read, ← s.blockReset.read_withHost s.host.tail a]
    rfl
  have noRead : (∀ a, op ≠ .read a) → (s.resetEdge op).log.reads = s.log.reads :=
    fun h => State.resetEdge_reads_of_no_read h s
  obtain ⟨log, e, faults⟩ := s.resetEdge_eq op
  rw [e] at samples read noRead ⊢
  exact ⟨rfl, rfl, rfl, rfl, rfl, rfl, rfl, Lines.low_get, rfl, rfl, Holds.reset_get, rfl, rfl, rfl, rfl,
    rfl, Analyzer.fresh_perbitAt _ _, Analyzer.fresh_histAt _ _, rfl, rfl, rfl, faults, samples, read,
    noRead⟩

/-! ## The cycles of the commands -/

/-- The state with the controller `c` before its event E0, no hold running. -/
def State.atEventZero (s : State) (c : Ctl) : State := { s with ctl := { c with evt := 0, holdCnt := 0 } }

/-- Acceptance is the edge of the controller that finds it before event E0 (40_link.md R92). -/
theorem State.start_linkCtl (s : State) {i : Instr} {m : Mode} (hm : linkMode i = some m) :
    s.start (s.linkCtl i) = (s.atEventZero (s.linkCtl i)).advance := by
  cases i with
  | reset | send | receive => rfl
  | record | clear => cases hm

/-- After the acceptance of a link command its whole event list remains. -/
theorem State.start_remaining (s : State) {i : Instr} {m : Mode} (hm : linkMode i = some m) :
    (s.start (s.linkCtl i)).remaining = s.cycles i := by
  have hprog : (s.atEventZero (s.linkCtl i)).program = events m i.width.toNat := s.linkCtl_program hm
  have hbusy : (s.atEventZero (s.linkCtl i)).busy = true := by cases i <;> cases hm <;> rfl
  have hrem : (s.atEventZero (s.linkCtl i)).remaining = 1 + s.cycles i := calc
    _ = 1 + ((events m i.width.toNat).map fun e => s.waitLen e.wait).sum :=
      hprog ▸ State.remaining_of_busy hbusy
    _ = 1 + s.cycles i := by rw [← s.eventTime_eq_cycles hm, State.eventTime, List.take_length]
  obtain ⟨hnext, _⟩ := State.advance_remaining hbusy
  rw [s.start_linkCtl hm]
  omega

/-- RECORD and CLEAR leave the controller alone, refused or not (41_analyzer.md R120). -/
theorem exec_ctl_of_no_link {i : Instr} {s t : State} (hm : linkMode i = none) (h : exec i s = .next t) :
    t.ctl = s.ctl := by
  have key : ∀ {ok : Bool} {run : State → State}, s.accept ok run = .next t → (run s).ctl = s.ctl →
      t.ctl = s.ctl := by
    intro ok run ha hrun
    rcases s.accept_cases ok run with ⟨_, e⟩ | ⟨_, _, e⟩ | ⟨_, _, e⟩ <;>
      rw [next_inj (e.symm.trans ha)]
    · rfl
    · exact hrun
    · rfl
  cases i with
  | reset | send | receive => cases hm
  | record w =>
    refine key h ?_
    rcases s.recordSample_cases w with ⟨_, e⟩ | ⟨_, e⟩ <;> exact e ▸ rfl
  | clear w => exact key h rfl

theorem State.cycles_of_no_link (s : State) {i : Instr} (hm : linkMode i = none) : s.cycles i = 0 := by
  cases i with
  | reset | send | receive => cases hm
  | record | clear => rfl

/-- With the default holds no hold is cut up to one cycle (40_link.md R90). -/
theorem State.holdLen_of_defaults {s : State} (hu : 1 ≤ s.param.unitCycles.toNat)
    (hs : s.holds = Holds.reset) (h : HoldReg) :
    s.holdLen h = (Holds.reset.get h).toNat * s.param.unitCycles.toNat := by
  have hpos : 1 ≤ (Holds.reset.get h).toNat := by cases h <;> decide
  rw [State.holdLen, hs, max_eq_right (Nat.mul_pos hpos hu)]

/-- Settles O35: a link command's event list remains after its acceptance, and the other commands leave the
controller in IDLE. -/
theorem commandDurations : Obligations.CommandDurations := by
  refine ⟨fun i s t hb hw h => ?_, fun s w hu hs => ?_⟩
  · cases hm : linkMode i with
    | some m => rw [next_inj ((exec_link hm hb hw).symm.trans h), s.start_remaining hm]
    | none =>
      have hidle : t.busy = false := by rw [State.busy, exec_ctl_of_no_link hm h]; exact hb
      rw [State.remaining_of_idle hidle, s.cycles_of_no_link hm]
  · simp only [State.resetCycles, State.sendCycles, State.sendSlotCycles, State.receiveCycles,
      State.receiveSlotCycles, State.holdLen_of_defaults hu hs]
    generalize s.param.unitCycles.toNat = U
    refine ⟨rfl, ?_, ?_⟩
    · change 10 * U + w * (5 * U + 5 * U + 5 * U + 5 * U + 5 * U) + 10 * U = _
      ring
    · change 10 * U + w * (5 * U + 5 * U + 5 * U) + 5 * U = _
      ring

/-! ## The line trace -/

/-- A line stands among the changes with its new value, if that differs from the old one. -/
theorem Lines.mem_changes {old new : Lines} {c : Line × Bool} :
    c ∈ old.changes new ↔ c.2 = new.get c.1 ∧ new.get c.1 ≠ old.get c.1 := by
  obtain ⟨l, b⟩ := c
  have mem_all : ∀ n : Line, n ∈ Line.all := fun n => by cases n <;> decide
  simp only [Lines.changes, List.mem_filterMap, mem_all, true_and]
  constructor
  · rintro ⟨n, h⟩
    split at h
    · cases h
    · cases h
      exact ⟨rfl, Ne.symm ‹_›⟩
  · rintro ⟨rfl, hne⟩
    exact ⟨l, if_neg hne.symm⟩

/-- Every edge notes the lines that it changed, block reset included (70_reset_and_hazards.md R193). -/
theorem step_lineTrace {s t : State} (h : step s = .next t) :
    t.log.lineTrace =
      (s.lines.changes t.lines).map (fun c => ⟨s.log.edge, c.1, c.2⟩) ++ s.log.lineTrace := by
  rcases step_inv h with ⟨_, rfl⟩ | ⟨hr, _⟩
  · cases s.hostCycle.bus <;> rfl
  · exact afterEdge_of_step h ▸ State.afterEdge_lineTrace hr

/-- Settles O55: what an edge adds to the trace are the changes of the lines, with the edge's number. -/
theorem lineTraceIsExact : Obligations.LineTraceIsExact := by
  intro s t h
  refine ⟨_, step_lineTrace h, fun c => ?_⟩
  rw [List.mem_map]
  constructor
  · rintro ⟨d, hd, rfl⟩
    exact ⟨rfl, Lines.mem_changes.mp hd⟩
  · rintro ⟨hedge, hchange⟩
    exact ⟨(c.line, c.value), Lines.mem_changes.mpr hchange, hedge ▸ rfl⟩

end Sys2Proof.Machine
end
